-- ==== Sys2Proof/Word.lean ====
section
/-! DEFINITION. The word types of the block: a byte of the command word or of calibration text, and
the 32-bit word that carries `ARG`, `RES`, durations (`DUR_W` = 32, R6) and, zero-extended, every
register value and mask (`REGW` is at most 30 bits, D2). -/

namespace Sys2Proof

/-- Eight bits: `CMD` (R86), or one byte of calibration text (R97). -/
abbrev Byte := BitVec 8

/-- Thirty-two bits: `ARG` and `RES` (R86, R88), a duration in milliseconds (R85), a virtual IRQ
identifier on the port (R52), or a register value or mask of `REGW` bits, zero-extended (R112). -/
abbrev Word := BitVec 32

/-- The `index` of a table entry, "unsigned integer (0–3)" (R28): 2 bits (R110). -/
abbrev Index := BitVec 2

end Sys2Proof
end

