-- ==== Sys2Proof/Config.lean ====
section
/-! DEFINITION. The configuration of the block: the OPEN parameters of R6 as a record, the data that
is compiled in (R8, R28, R29), the one instantiation `State.reset` uses (log entry 1), and the free
values the environment draws (R61, R260; opaque, so no proof can see one). -/

namespace Sys2Proof

/-- The two interrupt lines of the button (R13): `press` is the falling edge, `release` the rising. -/
inductive Line where
  | press
  | release
deriving DecidableEq, Repr, Inhabited

/-- The two calibration settings (R13): `st` is "startup", `sd` is "shutdown". -/
inductive Setting where
  | st
  | sd
deriving DecidableEq, Repr, Inhabited

/-- The two variant profiles (R2, R29). -/
inductive Profile where
  | vpDefault
  | vpAlt
deriving DecidableEq, Repr, Inhabited

/-- The level of the debounced, active-low button line (R38): `low` means pressed. -/
inductive Level where
  | high
  | low
deriving DecidableEq, Repr, Inhabited

/-- R28, R85: one entry of a duration table. -/
structure DurationEntry where
  index : Index
  durationMs : Word
deriving DecidableEq, Repr, Inhabited

/-- R85: a table is exactly 4 entries, at positions 0 to 3. -/
structure Table where
  pos0 : DurationEntry
  pos1 : DurationEntry
  pos2 : DurationEntry
  pos3 : DurationEntry
deriving DecidableEq, Repr, Inhabited

/-- The entries by rising position (the order of the scan of R115). -/
def Table.entries (t : Table) : List DurationEntry := [t.pos0, t.pos1, t.pos2, t.pos3]

/-- The entry at a position 0 to 3. -/
def Table.at (t : Table) : Fin 4 → DurationEntry
  | 0 => t.pos0
  | 1 => t.pos1
  | 2 => t.pos2
  | 3 => t.pos3

/-- R8: the shutdown table both profiles share. -/
def shutdownTable : Table :=
  { pos0 := ⟨0, 4000⟩, pos1 := ⟨1, 6000⟩, pos2 := ⟨2, 8000⟩, pos3 := ⟨3, 10000⟩ }

/-- One value for each profile. -/
structure ByProfile (α : Type) where
  vpDefault : α
  vpAlt : α
deriving DecidableEq, Repr, Inhabited

/-- The value of a profile. -/
def ByProfile.of {α : Type} (b : ByProfile α) : Profile → α
  | .vpDefault => b.vpDefault
  | .vpAlt => b.vpAlt

/-- R6: the parameters the source names and never values. `SUB_ORDER` is given by its first line;
the second is the other one. -/
structure ParamValues where
  /-- `REGW`, the width of one PMIC register. -/
  regw : Nat
  /-- `KEY_ADDR`. -/
  keyAddr : Nat
  /-- `STCLR_ADDR`. -/
  stclrAddr : Nat
  /-- `PRESS_LATCH_BIT`. -/
  pressLatchBit : Nat
  /-- `STARTUP_MASK(p)`. -/
  startupMask : ByProfile Word
  /-- `SHUTDOWN_MASK(p)`. -/
  shutdownMask : ByProfile Word
  /-- `STARTUP_TABLE(p)`. -/
  startupTable : ByProfile Table
  /-- `KEY_POWER`. -/
  keyPower : Nat
  /-- `ALT_NAME_1`. -/
  altName1 : String
  /-- `ALT_NAME_2`. -/
  altName2 : String
  /-- The first line of `SUB_ORDER`. -/
  subFirst : Line
deriving DecidableEq, Repr

/-- A mask of `regw` bits that is not zero. -/
def maskAdmitted (regw : Nat) (m : Word) : Bool := m != 0 && decide (m.toNat < 2 ^ regw)

/-- What an instantiation must meet before there is a machine at all: `2 <= REGW <= 30` (D2), no zero
mask (R113, D10), masks of `REGW` bits (R110), the latch a bit of its register (R6). The invariants of R7
are NOT asked here (D7): `WellFormed.lean` has them (log entry 16). Nor is it asked that the two
addresses differ, which a model must not assume (R55). -/
def ParamValues.admitted (p : ParamValues) : Bool :=
  decide (2 ≤ p.regw) && decide (p.regw ≤ 30) && decide (p.pressLatchBit < p.regw)
    && maskAdmitted p.regw p.startupMask.vpDefault && maskAdmitted p.regw p.startupMask.vpAlt
    && maskAdmitted p.regw p.shutdownMask.vpDefault && maskAdmitted p.regw p.shutdownMask.vpAlt

/-- An admitted instantiation: "a configuration with a zero mask is refused when the model is
instantiated, not at run time" (R113), so none can be built. -/
structure Params extends ParamValues where
  ok : toParamValues.admitted = true
deriving DecidableEq, Repr

/-- `mask(s)` of a profile (R13). -/
def Params.mask (p : Params) (prof : Profile) : Setting → Word
  | .st => p.startupMask.of prof
  | .sd => p.shutdownMask.of prof

/-- `table(s)` of a profile (R13): both profiles refer to the one shutdown table (R29). -/
def Params.table (p : Params) (prof : Profile) : Setting → Table
  | .st => p.startupTable.of prof
  | .sd => shutdownTable

/-- The instantiation `State.reset` uses. PRESUMED (log entry 1), unsafe: the non-normative
"reference instantiation" of spec/95 section 5 and spec/93 G2, G7, completed from the AXP20x family.
No statement rests on it: a state may hold any `Params`. -/
def Config.reference : Params where
  regw := 8
  keyAddr := 0x36
  stclrAddr := 0x4C
  pressLatchBit := 5
  startupMask := ⟨0xC0, 0xC0⟩
  shutdownMask := ⟨0x03, 0x03⟩
  startupTable :=
    { vpDefault := ⟨⟨0, 128⟩, ⟨2, 1000⟩, ⟨3, 2000⟩, ⟨1, 3000⟩⟩
      vpAlt := ⟨⟨0, 128⟩, ⟨1, 1000⟩, ⟨2, 2000⟩, ⟨3, 3000⟩⟩ }
  keyPower := 116
  altName1 := "INTCFD9"
  altName2 := "ACPI0011"
  subFirst := .release
  ok := by decide

/-- FREE VALUE: what `KEY` holds after the n-th draw (R260, R261). -/
opaque Config.drawKey : Nat → Word

/-- FREE VALUE: what `STCLR` holds after the n-th draw: the press latch and the uninterpreted bits
(R41, R260, R262). -/
opaque Config.drawStclr : Nat → Word

/-- FREE VALUE: `release_latch` after the n-th draw (R260, R262). -/
opaque Config.drawReleaseLatch : Nat → Bool

/-- FREE VALUE: the button's level after the n-th draw (R260, R262). -/
opaque Config.drawBtn : Nat → Level

/-- FREE VALUE: the transport's own error value `terr` of the n-th draw (R58, D50; log entry 15). -/
opaque Config.drawTerr : Nat → Word

end Sys2Proof
end

