-- ==== Sys2Proof/Syntax.lean ====
section
/-! DEFINITION. The 26 operations of PBC operation set 1 (R91), one constructor a row of
spec/opcode_table.json, with the operands R90 and R103 give them, and the command word that carries
one (R86). -/

namespace Sys2Proof

/-- R86: a command is a pair `(CMD, ARG)`. -/
structure Command where
  cmd : Byte
  arg : Word
deriving DecidableEq, Repr, Inhabited

/-- R103: the fields of `ARG` of `ATTACH`; `typeHigh` is `ARG[3:1]`. -/
structure AttachArg where
  vid : Bool
  typeHigh : BitVec 3
  gateSpecial : Bool
  latchClear : Bool
  fwAlt1 : Bool
  fwAlt2 : Bool
  resReleaseOk : Bool
  resPressOk : Bool
  allocOk : Bool
  sub1Ok : Bool
  sub2Ok : Bool
  actOk : Bool
  pid : Byte
  rid : Byte
deriving DecidableEq, Repr, Inhabited

/-- R91: the operation set. `tf` and `ld` are the draw of `CMD[3]` (R86). -/
inductive Instr where
  /-- `DECODE.ST`, R118. -/
  | decodeSt (r : Word)
  /-- `DECODE.SD`, R118. -/
  | decodeSd (r : Word)
  /-- `ENCODE.ST`, R124. -/
  | encodeSt (req : Word)
  /-- `ENCODE.SD`, R124. -/
  | encodeSd (req : Word)
  /-- `CALRD.ST`, R131. -/
  | calrdSt (tf : Bool)
  /-- `CALRD.SD`, R131. -/
  | calrdSd (tf : Bool)
  /-- `CALWR.ST`, R135. -/
  | calwrSt (tf : Bool) (req : Word)
  /-- `CALWR.SD`, R135. -/
  | calwrSd (tf : Bool) (req : Word)
  /-- `IRQ`, R150. -/
  | irq (id : Word)
  /-- `WAKEARM`, R172. -/
  | wakearm (b : Bool)
  /-- `SUSPEND`, R174. -/
  | suspend
  /-- `IRQOFF`, R178. -/
  | irqoff
  /-- `RESUME_NOIRQ`, R180. -/
  | resumeNoirq (tf : Bool)
  /-- `IRQON`, R181. -/
  | irqon
  /-- `RESUME`, R182. -/
  | resume
  /-- `SHUTDOWN`, R184. -/
  | shutdown
  /-- `GATE`, R200. -/
  | gate (gateSpecial fwAlt1 fwAlt2 : Bool)
  /-- `ATTACH`, R204. -/
  | attach (a : AttachArg)
  /-- `DETACH`, R210. -/
  | detach
  /-- `EDGE.F`, R156. -/
  | edgeF (ld : Bool)
  /-- `EDGE.R`, R157. -/
  | edgeR (ld : Bool)
  /-- `DELIVER.P`, R158. -/
  | deliverP
  /-- `DELIVER.R`, R158. -/
  | deliverR
  /-- `FINISH.P`, R159. -/
  | finishP
  /-- `FINISH.R`, R159. -/
  | finishR
  /-- `RESET`, R260. -/
  | reset
deriving DecidableEq, Repr, Inhabited

end Sys2Proof
end

