-- ==== Sys2Proof/WellFormed.lean ====
section
/-! DEFINITION. The well-formedness checks of the spec: tables, masks and profiles (R7), and the one
operand the encoding says "must be 0" (R103). All are `Bool`s, so that a test can evaluate them. The
machine does not assume the checks of R7 (D7); the laws that need them name them. -/

namespace Sys2Proof

/-- R7 `TableWF`: the four indices are pairwise different (each is 0 to 3 by its type) and the
durations strictly increase with the position. -/
def Table.wf (t : Table) : Bool :=
  t.pos0.index != t.pos1.index && t.pos0.index != t.pos2.index && t.pos0.index != t.pos3.index
    && t.pos1.index != t.pos2.index && t.pos1.index != t.pos3.index
    && t.pos2.index != t.pos3.index
    && decide (t.pos0.durationMs.toNat < t.pos1.durationMs.toNat)
    && decide (t.pos1.durationMs.toNat < t.pos2.durationMs.toNat)
    && decide (t.pos2.durationMs.toNat < t.pos3.durationMs.toNat)

/-- A run of `n` set bits whose lowest stands at bit `k`. -/
def runOfOnes (k n : Nat) : Word := BitVec.ofNat 32 ((2 ^ n - 1) * 2 ^ k)

/-- R7 `MaskWF`: nonzero, contiguous set bits, at least 2 of them, below `2^REGW`; that is, a run of
`n >= 2` ones that ends at or below bit `REGW - 1`. -/
def maskWf (regw : Nat) (m : Word) : Bool :=
  (List.range regw).any fun k =>
    (List.range (regw + 1)).any fun n => decide (2 ≤ n) && decide (k + n ≤ regw) && m == runOfOnes k n

/-- R7 `ProfileWF`: both tables and both masks are well formed, and the two fields are disjoint. -/
def Params.profileWf (p : Params) (prof : Profile) : Bool :=
  (p.table prof .st).wf && (p.table prof .sd).wf
    && maskWf p.regw (p.mask prof .st) && maskWf p.regw (p.mask prof .sd)
    && p.mask prof .st &&& p.mask prof .sd == 0

/-- An instruction is well formed when its operands are ones the encodings give a meaning to: of
`ATTACH`, `ARG[3:1]` "must be 0" (R103, R203). Every other operand is limited by its type, and the
machine still runs the ill-formed `ATTACH`: it answers `REFUSED` (R204). -/
def Instr.wf : Instr → Bool
  | .attach a => a.typeHigh == 0
  | .decodeSt _ | .decodeSd _ | .encodeSt _ | .encodeSd _ | .calrdSt _ | .calrdSd _ => true
  | .calwrSt _ _ | .calwrSd _ _ | .irq _ | .wakearm _ | .suspend | .irqoff | .resumeNoirq _ => true
  | .irqon | .resume | .shutdown | .gate _ _ _ | .detach | .edgeF _ | .edgeR _ => true
  | .deliverP | .deliverR | .finishP | .finishR | .reset => true

end Sys2Proof
end

