-- ==== Sys2Proof/Decode.lean ====
section
/-! DEFINITION. The opcode map of R91 row by row, the decoder (total on every 8-bit `CMD` and 32-bit
`ARG`; a reserved `CMD` is rejected by name, R93) and the encoder, both written from that map and
from R90 and R103. -/

namespace Sys2Proof

/-- The rows of R91, in its order. -/
inductive Op where
  | decodeSt | decodeSd | encodeSt | encodeSd | calrdSt | calrdSd | calwrSt | calwrSd
  | irq | wakearm | suspend | irqoff | resumeNoirq | irqon | resume | shutdown
  | gate | attach | detach | edgeF | edgeR | deliverP | deliverR | finishP | finishR | reset
deriving DecidableEq, Repr, Inhabited

/-- The column "CMD match" of R91. -/
def Op.pattern : Op → Byte
  | .decodeSt => 0x10
  | .decodeSd => 0x11
  | .encodeSt => 0x20
  | .encodeSd => 0x21
  | .calrdSt => 0x30
  | .calrdSd => 0x31
  | .calwrSt => 0x40
  | .calwrSd => 0x41
  | .irq => 0x50
  | .wakearm => 0x60
  | .suspend => 0x61
  | .irqoff => 0x62
  | .resumeNoirq => 0x63
  | .irqon => 0x64
  | .resume => 0x65
  | .shutdown => 0x66
  | .gate => 0x70
  | .attach => 0x71
  | .detach => 0x72
  | .edgeF => 0x80
  | .edgeR => 0x81
  | .deliverP => 0x82
  | .deliverR => 0x83
  | .finishP => 0x84
  | .finishR => 0x85
  | .reset => 0xF0

/-- The column "CMD mask" of R91: 0xF7 where `CMD[3]` carries a draw, else 0xFF. -/
def Op.mask : Op → Byte
  | .calrdSt | .calrdSd | .calwrSt | .calwrSd | .resumeNoirq | .edgeF | .edgeR => 0xF7
  | .decodeSt | .decodeSd | .encodeSt | .encodeSd | .irq | .wakearm | .suspend | .irqoff => 0xFF
  | .irqon | .resume | .shutdown | .gate | .attach | .detach => 0xFF
  | .deliverP | .deliverR | .finishP | .finishR | .reset => 0xFF

/-- The column "mnemonic" of R91. -/
def Op.mnemonic : Op → String
  | .decodeSt => "DECODE.ST"
  | .decodeSd => "DECODE.SD"
  | .encodeSt => "ENCODE.ST"
  | .encodeSd => "ENCODE.SD"
  | .calrdSt => "CALRD.ST"
  | .calrdSd => "CALRD.SD"
  | .calwrSt => "CALWR.ST"
  | .calwrSd => "CALWR.SD"
  | .irq => "IRQ"
  | .wakearm => "WAKEARM"
  | .suspend => "SUSPEND"
  | .irqoff => "IRQOFF"
  | .resumeNoirq => "RESUME_NOIRQ"
  | .irqon => "IRQON"
  | .resume => "RESUME"
  | .shutdown => "SHUTDOWN"
  | .gate => "GATE"
  | .attach => "ATTACH"
  | .detach => "DETACH"
  | .edgeF => "EDGE.F"
  | .edgeR => "EDGE.R"
  | .deliverP => "DELIVER.P"
  | .deliverR => "DELIVER.R"
  | .finishP => "FINISH.P"
  | .finishR => "FINISH.R"
  | .reset => "RESET"

/-- Every row of R91, in its order. -/
def Op.all : List Op :=
  [.decodeSt, .decodeSd, .encodeSt, .encodeSd, .calrdSt, .calrdSd, .calwrSt, .calwrSd]
    ++ [.irq, .wakearm, .suspend, .irqoff, .resumeNoirq, .irqon, .resume, .shutdown]
    ++ [.gate, .attach, .detach, .edgeF, .edgeR, .deliverP, .deliverR, .finishP, .finishR, .reset]

/-- R91: "a row is selected when `(CMD & mask) = match`". -/
def Op.selects (o : Op) (cmd : Byte) : Bool := cmd &&& o.mask == o.pattern

/-- R86: `CMD[3] = DRW`, the one Boolean draw an operation may need. -/
def drawBit (cmd : Byte) : Bool := cmd.getLsbD 3

/-- R103: the fields of `ARG` of `ATTACH`; bits 15:14 are ignored. -/
def AttachArg.ofArg (arg : Word) : AttachArg where
  vid := arg.getLsbD 0
  typeHigh := arg.extractLsb' 1 3
  gateSpecial := arg.getLsbD 4
  latchClear := arg.getLsbD 5
  fwAlt1 := arg.getLsbD 6
  fwAlt2 := arg.getLsbD 7
  resReleaseOk := arg.getLsbD 8
  resPressOk := arg.getLsbD 9
  allocOk := arg.getLsbD 10
  sub1Ok := arg.getLsbD 11
  sub2Ok := arg.getLsbD 12
  actOk := arg.getLsbD 13
  pid := arg.extractLsb' 16 8
  rid := arg.extractLsb' 24 8

/-- The instruction a row stands for, with its operands read from the draw bit and `ARG` (R90). -/
def Op.instr (o : Op) (drw : Bool) (arg : Word) : Instr :=
  match o with
  | .decodeSt => .decodeSt arg
  | .decodeSd => .decodeSd arg
  | .encodeSt => .encodeSt arg
  | .encodeSd => .encodeSd arg
  | .calrdSt => .calrdSt drw
  | .calrdSd => .calrdSd drw
  | .calwrSt => .calwrSt drw arg
  | .calwrSd => .calwrSd drw arg
  | .irq => .irq arg
  | .wakearm => .wakearm (arg.getLsbD 0)
  | .suspend => .suspend
  | .irqoff => .irqoff
  | .resumeNoirq => .resumeNoirq drw
  | .irqon => .irqon
  | .resume => .resume
  | .shutdown => .shutdown
  | .gate => .gate (arg.getLsbD 0) (arg.getLsbD 1) (arg.getLsbD 2)
  | .attach => .attach (AttachArg.ofArg arg)
  | .detach => .detach
  | .edgeF => .edgeF drw
  | .edgeR => .edgeR drw
  | .deliverP => .deliverP
  | .deliverR => .deliverR
  | .finishP => .finishP
  | .finishR => .finishR
  | .reset => .reset

/-- Why a command has no instruction. -/
inductive DecodeError where
  /-- R93: no row of R91 selects this `CMD`; the machine answers `ILLEGAL_OP`. -/
  | reservedCommand (cmd : Byte)
deriving DecidableEq, Repr

/-- The decoder: the row that selects `CMD` (R91), else a rejection by name (R93). -/
def decode (c : Command) : Except DecodeError Instr :=
  match Op.all.find? fun o => o.selects c.cmd with
  | some o => .ok (o.instr (drawBit c.cmd) c.arg)
  | none => .error (.reservedCommand c.cmd)

/-! ### The encoder -/

/-- One bit of a byte. -/
def byteBit (b : Bool) (i : Nat) : Byte := if b then BitVec.twoPow 8 i else 0

/-- One bit of `ARG`. -/
def argBit (b : Bool) (i : Nat) : Word := if b then BitVec.twoPow 32 i else 0

/-- A field of `ARG` at bit `i`. -/
def argField (n : Nat) (v : BitVec n) (i : Nat) : Word := v.setWidth 32 <<< i

/-- R103, the other way round; the ignored bits are 0. -/
def AttachArg.toArg (a : AttachArg) : Word :=
  [argBit a.vid 0, argField 3 a.typeHigh 1, argBit a.gateSpecial 4, argBit a.latchClear 5,
    argBit a.fwAlt1 6, argBit a.fwAlt2 7, argBit a.resReleaseOk 8, argBit a.resPressOk 9,
    argBit a.allocOk 10, argBit a.sub1Ok 11, argBit a.sub2Ok 12, argBit a.actOk 13,
    argField 8 a.pid 16, argField 8 a.rid 24].foldr (fun x y => x ||| y) 0

/-- The row of an instruction. -/
def Instr.op : Instr → Op
  | .decodeSt _ => .decodeSt
  | .decodeSd _ => .decodeSd
  | .encodeSt _ => .encodeSt
  | .encodeSd _ => .encodeSd
  | .calrdSt _ => .calrdSt
  | .calrdSd _ => .calrdSd
  | .calwrSt _ _ => .calwrSt
  | .calwrSd _ _ => .calwrSd
  | .irq _ => .irq
  | .wakearm _ => .wakearm
  | .suspend => .suspend
  | .irqoff => .irqoff
  | .resumeNoirq _ => .resumeNoirq
  | .irqon => .irqon
  | .resume => .resume
  | .shutdown => .shutdown
  | .gate _ _ _ => .gate
  | .attach _ => .attach
  | .detach => .detach
  | .edgeF _ => .edgeF
  | .edgeR _ => .edgeR
  | .deliverP => .deliverP
  | .deliverR => .deliverR
  | .finishP => .finishP
  | .finishR => .finishR
  | .reset => .reset

/-- The draw an instruction carries in `CMD[3]` (R86); false where it has none. -/
def Instr.draw : Instr → Bool
  | .calrdSt tf | .calrdSd tf | .calwrSt tf _ | .calwrSd tf _ | .resumeNoirq tf => tf
  | .edgeF ld | .edgeR ld => ld
  | .decodeSt _ | .decodeSd _ | .encodeSt _ | .encodeSd _ | .irq _ | .wakearm _ | .suspend => false
  | .irqoff | .irqon | .resume | .shutdown | .gate _ _ _ | .attach _ | .detach => false
  | .deliverP | .deliverR | .finishP | .finishR | .reset => false

/-- The operand word of an instruction (R90); 0 where it has none. -/
def Instr.arg : Instr → Word
  | .decodeSt r | .decodeSd r => r
  | .encodeSt req | .encodeSd req | .calwrSt _ req | .calwrSd _ req => req
  | .irq id => id
  | .wakearm b => argBit b 0
  | .gate gs a1 a2 => argBit gs 0 ||| argBit a1 1 ||| argBit a2 2
  | .attach a => a.toArg
  | .calrdSt _ | .calrdSd _ | .suspend | .irqoff | .resumeNoirq _ | .irqon | .resume => 0
  | .shutdown | .detach | .edgeF _ | .edgeR _ | .deliverP | .deliverR => 0
  | .finishP | .finishR | .reset => 0

/-- The encoder: the command word of an instruction (R86, R91). -/
def encode (i : Instr) : Command := ⟨i.op.pattern ||| byteBit i.draw 3, i.arg⟩

/-- A command as spec/opcode_table.json numbers its bits: `CMD` is bits 7:0 and `ARG` bits 39:8; every
bit at or above `nbits` is 0. There is no byte order to choose (R56, log entry 4). -/
def Command.ofTableWord (nbits w : Nat) : Command :=
  ⟨BitVec.ofNat 8 (w % 2 ^ nbits), BitVec.ofNat 32 (w % 2 ^ nbits / 2 ^ 8)⟩

/-- The instruction the decoder reads from a word numbered as the opcode table numbers it. -/
def decodeTableWord (nbits w : Nat) : Option Instr :=
  match decode (Command.ofTableWord nbits w) with
  | .ok i => some i
  | .error _ => none

end Sys2Proof
end

