-- ==== Sys2Proof/Machine/State.lean ====
section
/-! DEFINITION. The state of the block (spec/10), as plain data: the two PMIC registers, the
controller, the subscriptions, the endpoint, the phase, the sink, the environment state of R38; and
beside it the model's own fields: the parameters, the response of the last step, the counter of the
draws and the commands still to be taken. Then the reasons a step can stop, and the reset state. -/

namespace Sys2Proof.Machine

/-- R33: one line's subscription status. -/
structure Sub where
  subscribed : Bool
  enabled : Bool
  wakeMarked : Bool
deriving DecidableEq, Repr, Inhabited

/-- No subscription (R41). -/
def Sub.absent : Sub := ⟨false, false, false⟩

/-- A subscription as setup step 5 leaves it: enabled, not wake-marked (R208). -/
def Sub.fresh : Sub := ⟨true, true, false⟩

/-- R34: the logical input endpoint. `allocated` exists only inside `ATTACH`, which is one step. -/
inductive Endpoint where
  | none
  | allocated
  | active
deriving DecidableEq, Repr, Inhabited

/-- R35: the place of the host in its power sequence. -/
inductive Phase where
  | run
  | suspended
  | noirq
  | noirqResumed
  | irqResumed
  | off
deriving DecidableEq, Repr, Inhabited

/-- R38: whether the handler of a line still owes its `SYNC`. -/
inductive Inflight where
  | none
  | needSync
deriving DecidableEq, Repr, Inhabited

/-- The one key the block reports (R102); its numeric code is the parameter `KEY_POWER`. -/
inductive Key where
  | power
deriving DecidableEq, Repr, Inhabited

/-- R37, R102: an event of the sink. -/
inductive Event where
  | key (k : Key) (pressed : Bool)
  | sync
deriving DecidableEq, Repr, Inhabited

/-- R89: the status codes. -/
inductive Status where
  | ok
  | invalidInput
  | resourceUnavailable
  | resourceExhausted
  | transportFailure
  | refused
  | illegalOp
deriving DecidableEq, Repr, Inhabited

/-- R88: the response of a step on the command port. -/
structure Response where
  status : Status
  res : Word
deriving DecidableEq, Repr, Inhabited

/-- R30: what a controller holds from attachment on. -/
structure Controller where
  profile : Profile
  /-- `cfg.gate_special`. -/
  gateSpecial : Bool
  /-- `cfg.latch_clear`. -/
  latchClear : Bool
deriving DecidableEq, Repr, Inhabited

/-- R30: the two virtual IRQ identifiers. -/
structure IrqIds where
  press : Word
  release : Word
deriving DecidableEq, Repr, Inhabited

/-- One value for each line. -/
structure PerLine (α : Type) where
  press : α
  release : α
deriving DecidableEq, Repr, Inhabited

/-- The machine. A field the spec says has "no value" at times (R30, R41) is an `Option`, and the
Boolean that says whether it has one (`attached`, `active`) is its `isSome`: one home each (log entry 9). -/
structure State where
  /-- R22: the `KEY` register (`REGW` bits, zero-extended). -/
  key : Word
  /-- R26: the `STCLR` register; `press_latch` is its bit `PRESS_LATCH_BIT`. -/
  stclr : Word
  /-- R27. -/
  releaseLatch : Bool
  /-- R30: `attached`, `profile` and `cfg`; `none` is "no controller exists". -/
  controller : Option Controller
  /-- R30: `active`, `press_irq_id` and `release_irq_id`; `none` is "not active". -/
  irqIds : Option IrqIds
  /-- R31. -/
  wakeArmed : Bool
  /-- R32. -/
  wakeCapable : Bool
  /-- R33: `sub[L]`. -/
  sub : PerLine Sub
  /-- R34. -/
  ep : Endpoint
  /-- R34: the capability "reports power-key events". -/
  capPowerKey : Bool
  /-- R35. -/
  phase : Phase
  /-- R37: the events emitted so far, oldest first. -/
  sink : List Event
  /-- R38: the level of the button line. -/
  btn : Level
  /-- R38: `inflight[L]`. -/
  inflight : PerLine Inflight
  /-- MODEL's own (R88, log entry 3): the response of the last step. -/
  resp : Response
  /-- MODEL's own (R6, log entry 1): the parameters; no step writes them. -/
  params : Params
  /-- MODEL's own (log entry 5): how many draws the environment has made. -/
  draws : Nat
  /-- MODEL's own (log entry 4): the commands and events still to come, in the order in which the
  agents act (R64). -/
  pending : List Command
deriving DecidableEq, Repr

/-- Why the machine stops with a fault. It has no constructor: the block has errors, which an operation
returns (R230), and no alignment fault, no protection fault and no address that names no register
(R57, R63). -/
inductive Fault
deriving DecidableEq, Repr

/-- Why a step has no meaning. -/
inductive Refusal where
  /-- An instruction whose meaning is not written. Raised by no arm of `exec` any more. Safe. -/
  | notModelled (mnemonic : String)
  /-- Raised by `step` when no agent acts: the block is reactive, "each step is caused by one agent"
  (R21). Safe: the machine stops where the hardware waits (log entry 4). -/
  | noCommand
deriving DecidableEq, Repr

/-- The state R260 gives for the draws it leaves open, under given parameters. The response is the
one of `RESET` itself, `OK` with `RES = 0` (R90). -/
def State.resetWith (p : Params) (key stclr : Word) (releaseLatch : Bool) (btn : Level) : State where
  key := key
  stclr := stclr
  releaseLatch := releaseLatch
  controller := none
  irqIds := none
  wakeArmed := false
  wakeCapable := false
  sub := ⟨.absent, .absent⟩
  ep := .none
  capPowerKey := false
  phase := .run
  sink := []
  btn := btn
  inflight := ⟨.none, .none⟩
  resp := ⟨.ok, 0⟩
  params := p
  draws := 0
  pending := []

/-- The machine right after reset (R41, R260): the spec's values, and for `KEY`, `STCLR`, the release
latch and the button, which the spec leaves to draws, the values of log entry 2 (PRESUMED and DESIGN
CHOICE, unsafe). -/
def State.reset : State := State.resetWith Config.reference 0x5D 0 false .high

end Sys2Proof.Machine
end

