-- ==== Sys2Proof/Machine/Flags.lean ====
section
/-! DEFINITION. The single-bit state of R36 and what is computed from it: the views `attached`,
`active`, `press_latch`, `latch[L]`; the host interrupt mask of R160; the guards the operations
share; and the output `wake_req` (R186). The block has no arithmetic condition codes (R36). -/

namespace Sys2Proof.Machine

/-- The value of a line. -/
def PerLine.at {α : Type} (v : PerLine α) : Line → α
  | .press => v.press
  | .release => v.release

/-- Gives one line a new value. -/
def PerLine.set {α : Type} (v : PerLine α) (l : Line) (x : α) : PerLine α :=
  match l with
  | .press => { v with press := x }
  | .release => { v with release := x }

/-- R30: a controller exists. -/
def State.attached (s : State) : Bool := s.controller.isSome

/-- R30: the gate said "activate" and setup succeeded. -/
def State.active (s : State) : Bool := s.irqIds.isSome

/-- R26: `press_latch`, the bit `PRESS_LATCH_BIT` of `STCLR`. -/
def State.pressLatch (s : State) : Bool := s.stclr.getLsbD s.params.pressLatchBit

/-- `latch[L]` (R158). -/
def State.latch (s : State) : Line → Bool
  | .press => s.pressLatch
  | .release => s.releaseLatch

/-- No handler is in progress: `inflight` is `NONE` for both lines (R171). -/
def State.quiet (s : State) : Bool := s.inflight.press == .none && s.inflight.release == .none

/-- R160: the phases in which the host has its interrupts on. -/
def Phase.irqsOn : Phase → Bool
  | .run | .suspended | .irqResumed => true
  | .noirq | .noirqResumed | .off => false

/-- R158: the guard of `DELIVER.L`. -/
def State.deliverable (s : State) (l : Line) : Bool :=
  s.active && (s.sub.at l).subscribed && (s.sub.at l).enabled && s.latch l
    && s.inflight.at l == .none && s.phase.irqsOn

/-- One line's part of `wake_req` (R186). -/
def State.wakes (s : State) (l : Line) : Bool :=
  s.latch l && (s.sub.at l).subscribed && (s.sub.at l).enabled && (s.sub.at l).wakeMarked

/-- R186: the output `wake_req`. -/
def State.wakeReq (s : State) : Bool := s.phase == .noirq && (s.wakes .press || s.wakes .release)

/-- R171: what every move of the phase machine asks: `attached`, the phase it starts from, and no
handler in progress. -/
def State.mayMoveFrom (s : State) (ph : Phase) : Bool := s.attached && s.phase == ph && s.quiet

end Sys2Proof.Machine
end

