-- ==== Sys2Proof/Machine/Operands.lean ====
section
/-! DEFINITION. The operand forms and pure functions of the spec: the field of a register (R10, R83,
R84), the codec `decode`, `nearest`, `encode` (R111, R115, R119, R122), the registration gate (R200),
the operands of `ATTACH` (R103), and the numeric codes of the responses (R89, R92) and events (R102). -/

namespace Sys2Proof.Machine

/-- R10: `lsb(m)`, the position of the lowest set bit of a nonzero mask. `lsb(0)` is not defined by
the spec and no admitted parameters hold a zero mask (R113; log entry 6). -/
def lsb (m : Word) : Nat := ((List.range 32).find? fun i => m.getLsbD i).getD 0

/-- R10: `width(m)`, the number of set bits. -/
def maskWidth (m : Word) : Nat := (List.range 32).countP fun i => m.getLsbD i

/-- R83: `field(R, m) = (R & m) >> lsb(m)`. -/
def field (r m : Word) : Word := (r &&& m) >>> lsb m

/-- R84: `shifted(i, m) = i << lsb(m)`. -/
def shifted (i : Index) (m : Word) : Word := i.setWidth 32 <<< lsb m

/-- R111: the exact absolute difference, as a natural number. -/
def absdiff (a b : Word) : Nat := max a.toNat b.toNat - min a.toNat b.toNat

/-- R115, R116: the duration a register value stands for; the lowest position with the extracted
index, or the raw extracted value where no entry has it. -/
def durationOf (r m : Word) (t : Table) : Word :=
  match t.entries.find? fun e => e.index.setWidth 32 == field r m with
  | some e => e.durationMs
  | none => field r m

/-- R119: the scan over the entries still to be looked at. `best` is the smallest error so far
(`none` is "+infinity"), replaced only on a strictly smaller one; an error of 0 ends the scan. -/
def nearestScan (req : Word) : List DurationEntry → Option Nat → Index → Index
  | [], _, idx => idx
  | e :: es, best, idx =>
    let err := absdiff e.durationMs req
    let better := best.all fun b => decide (err < b)
    let best' := if better then some err else best
    let idx' := if better then e.index else idx
    if err = 0 then idx' else nearestScan req es best' idx'

/-- R119: `nearest(req, t)`, scanned from the last entry to the first. -/
def nearest (req : Word) (t : Table) : Index := nearestScan req t.entries.reverse none t.pos3.index

/-- R122: `encode(req, m, t) = nearest(req, t) << lsb(m)`. -/
def shiftedNearest (req m : Word) (t : Table) : Word := shifted (nearest req t) m

/-- The `REGW` low bits, the width of a register (R9, R50). -/
def regMask (p : Params) : Word := BitVec.ofNat 32 (2 ^ p.regw - 1)

/-- `v[REGW-1:0]` (R90). -/
def toReg (p : Params) (v : Word) : Word := v &&& regMask p

/-- R200: `gate(gs, a1, a2) = not (gs and (a1 or a2))`; true means "activate". -/
def gateActivates (gs a1 a2 : Bool) : Bool := !(gs && (a1 || a2))

/-- A Boolean result in `RES[0]` (R90). -/
def boolWord (b : Bool) : Word := if b then 1 else 0

/-- R103, R203: the profile `VID` selects. -/
def attachProfile (a : AttachArg) : Profile := if a.vid then .vpAlt else .vpDefault

/-- R204: `res_ok(L)`. -/
def resolveOk (a : AttachArg) : Line → Bool
  | .press => a.resPressOk
  | .release => a.resReleaseOk

/-- R103: the gate's decision on the inputs `ATTACH` carries. -/
def attachActivates (a : AttachArg) : Bool := gateActivates a.gateSpecial a.fwAlt1 a.fwAlt2

/-- R204: what `ATTACH` commits of the device. -/
def attachController (a : AttachArg) : Controller := ⟨attachProfile a, a.gateSpecial, a.latchClear⟩

/-- R103, R206: the two identifiers, zero-extended to 32 bits. -/
def attachIds (a : AttachArg) : IrqIds := ⟨a.pid.setWidth 32, a.rid.setWidth 32⟩

/-- The other line. -/
def otherLine : Line → Line
  | .press => .release
  | .release => .press

/-- R92: the bit of `RES[4]` for the line that failed. -/
def lineWord : Line → Word
  | .press => 0
  | .release => 0x10

/-- R92: `RES` on `RESOURCE_UNAVAILABLE` at setup step 1. -/
def resolveFailed (l : Line) : Word := 1 ||| lineWord l

/-- R92: `RES` on `RESOURCE_UNAVAILABLE` at setup step 5. -/
def subscribeFailed (l : Line) : Word := 2 ||| lineWord l

/-- R92: `RES` on `RESOURCE_UNAVAILABLE` at setup step 6. -/
def activateFailed : Word := 3

/-- R89: the 4-bit code of a status. -/
def Status.code : Status → BitVec 4
  | .ok => 0x0
  | .invalidInput => 0x1
  | .resourceUnavailable => 0x2
  | .resourceExhausted => 0x3
  | .transportFailure => 0x4
  | .refused => 0xE
  | .illegalOp => 0xF

/-- R102: the numeric code of a key, a parameter. -/
def Key.code (p : Params) : Key → Nat
  | .power => p.keyPower

/-- R102: how a trace writes an event. -/
def Event.letters : Event → String
  | .key .power true => "K1"
  | .key .power false => "K0"
  | .sync => "S"

/-- The two events one handler invocation of a line emits (R151, R152): `true` for a press. -/
def keyEventOf : Line → Event
  | .press => .key .power true
  | .release => .key .power false

/-! ### The members of a family by setting or line (the `.s` and `.L` of the spec's rule names) -/

/-- `DECODE.s` (R118). -/
def decodeOf (r : Word) : Setting → Instr
  | .st => .decodeSt r
  | .sd => .decodeSd r

/-- `ENCODE.s` (R124). -/
def encodeOf (req : Word) : Setting → Instr
  | .st => .encodeSt req
  | .sd => .encodeSd req

/-- `CALRD.s` (R131). -/
def calrdOf (tf : Bool) : Setting → Instr
  | .st => .calrdSt tf
  | .sd => .calrdSd tf

/-- `CALWR.s` (R135). -/
def calwrOf (tf : Bool) (req : Word) : Setting → Instr
  | .st => .calwrSt tf req
  | .sd => .calwrSd tf req

/-- `DELIVER.L` (R158). -/
def deliverOf : Line → Instr
  | .press => .deliverP
  | .release => .deliverR

/-- `FINISH.L` (R159). -/
def finishOf : Line → Instr
  | .press => .finishP
  | .release => .finishR

end Sys2Proof.Machine
end

