-- ==== Sys2Proof/Machine/Ops.lean ====
section
/-! DEFINITION. The named operations every meaning is written with: answering on the port, raising an
error kind, the register transport, the event sink, the latches, entering the edge handler and
returning from it, the subscription calls, clearing the controller, the draws, taking a command. -/

namespace Sys2Proof.Machine

/-- One step's outcome on this machine. -/
abbrev StepOutcome := Host.Outcome State Fault Refusal

/-! ### Answering -/

/-- Puts a response on the port (R88). -/
def reply (st : Status) (res : Word) (s : State) : State := { s with resp := ⟨st, res⟩ }

/-- `STATUS <- OK; RES <- res`. -/
def complete (res : Word) (s : State) : StepOutcome := .next (reply .ok res s)

/-- `STATUS <- REFUSED; stop`: nothing changes, `RES = 0` (R12, R90; log entry 7). -/
def refuse (s : State) : StepOutcome := .next (reply .refused 0 s)

/-- A reserved command: `STATUS = ILLEGAL_OP`, `RES = 0`, no change of state (R93). -/
def illegalCommand (s : State) : StepOutcome := .next (reply .illegalOp 0 s)

/-- R89, R231 to R234: the four error kinds of the source. -/
inductive ErrorKind where
  | invalidInput
  | resourceUnavailable
  | resourceExhausted
  | transportFailure
deriving DecidableEq, Repr

/-- R89: the status of an error kind. -/
def ErrorKind.status : ErrorKind → Status
  | .invalidInput => .invalidInput
  | .resourceUnavailable => .resourceUnavailable
  | .resourceExhausted => .resourceExhausted
  | .transportFailure => .transportFailure

/-- R230 `raise <Error>(info)`: TAKING AN ERROR, the one way an operation does. The kind goes to
`STATUS` and the information to `RES`; the state is otherwise unchanged. -/
def raise (e : ErrorKind) (info : Word) (s : State) : StepOutcome := .next (reply e.status info s)

/-- R118, R131: what an operation that needs the attached profile does where it may not run: refused
while detached and in `PH_OFF`, else the body with the controller. -/
def withController (s : State) (body : Controller → StepOutcome) : StepOutcome :=
  match s.controller with
  | none => refuse s
  | some c => if s.phase = .off then refuse s else body c

/-! ### Draws -/

/-- The environment has made one more draw. -/
def drawn (s : State) : State := { s with draws := s.draws + 1 }

/-! ### The register transport (R58, R59) -/

/-- R50, R55, R57: the two addresses the block reaches, by the register each names. They are two
registers whatever their numbers are, so a claim assumes neither that the numbers differ nor that they
do not (log entry 18). -/
inductive Register where
  /-- `KEY`, at `KEY_ADDR`. -/
  | key
  /-- `STCLR`, at `STCLR_ADDR`. -/
  | stclr
deriving DecidableEq, Repr

/-- R6, R50: the number of a register's address. No rule reads it (R55). -/
def Register.addr (p : Params) : Register → Nat
  | .key => p.keyAddr
  | .stclr => p.stclrAddr

/-- The content of a register. -/
def readRegister (r : Register) (s : State) : Word :=
  match r with
  | .key => s.key
  | .stclr => s.stclr

/-- Gives a register a new content. -/
def writeRegister (r : Register) (v : Word) (s : State) : State :=
  match r with
  | .key => { s with key := v }
  | .stclr => { s with stclr := v }

/-- The outcomes of `MemRead`. -/
inductive ReadResult where
  /-- `(R, ok)`. -/
  | value (v : Word)
  /-- `(-, failed terr)`. -/
  | failed (terr : Word)
deriving DecidableEq, Repr

/-- R58 `MemRead(addr, 1)`: the content of the register, or the transport's error value when the draw
`tf` says so. It changes no register (log entry 12). -/
def memRead (r : Register) (tf : Bool) (s : State) : ReadResult :=
  if tf then .failed (Config.drawTerr s.draws) else .value (readRegister r s)

/-- R59: the bits of `mask` take their value from `v`, all others stay. -/
def updatedBits (old mask v : Word) : Word := (old &&& ~~~mask) ||| (v &&& mask)

/-- The outcomes of `RegUpdateBits`. -/
inductive UpdateResult where
  /-- ok, with the state after the update. -/
  | done (s : State)
  /-- failed: nothing changed. -/
  | failed

/-- R59 `RegUpdateBits(addr, mask, v)`: one atomic update (R60, log entry 12), or none when the draw `tf`
says so. -/
def regUpdateBits (r : Register) (mask v : Word) (tf : Bool) (s : State) : UpdateResult :=
  if tf then .failed else .done (writeRegister r (updatedBits (readRegister r s) mask v) s)

/-! ### The event sink, the latches, the edge handler -/

/-- R53: appends an event to the sink. -/
def emit (e : Event) (s : State) : State := { s with sink := s.sink ++ [e] }

/-- Sets or clears one bit of a register. -/
def withBit (w : Word) (i : Nat) (b : Bool) : Word :=
  if b then w ||| BitVec.twoPow 32 i else w &&& ~~~(BitVec.twoPow 32 i)

/-- `press_latch <- b`: one bit of `STCLR` (R26). -/
def setPressLatch (b : Bool) (s : State) : State :=
  { s with stclr := withBit s.stclr s.params.pressLatchBit b }

/-- `latch[L] <- b`. -/
def setLatch (l : Line) (b : Bool) (s : State) : State :=
  match l with
  | .press => setPressLatch b s
  | .release => { s with releaseLatch := b }

/-- `inflight[L] <- f`. -/
def setInflight (l : Line) (f : Inflight) (s : State) : State :=
  { s with inflight := s.inflight.set l f }

/-- R244, R245, R158: ENTERING THE EDGE HANDLER for a latched edge. The latch is cleared, the `KEY`
event emitted, and the handler owes its `SYNC`; nothing is saved and no mode changes. -/
def enterHandler (l : Line) (s : State) : State :=
  setInflight l .needSync (emit (keyEventOf l) (setLatch l false s))

/-- R246, R159: RETURNING FROM THE EDGE HANDLER: its `SYNC` is emitted; nothing is restored. -/
def returnHandler (l : Line) (s : State) : State := setInflight l .none (emit .sync s)

/-- R150, R153: a whole invocation in one step: `KEY`, then `SYNC`. -/
def runHandler (l : Line) (s : State) : State := emit .sync (emit (keyEventOf l) s)

/-- R156: what an edge does to its line's latch: always set on an enabled subscribed line, by the draw
`ld` on any other. -/
def latchEdge (l : Line) (ld : Bool) (s : State) : State :=
  if (s.sub.at l).subscribed && (s.sub.at l).enabled then setLatch l true s
  else if ld then setLatch l true s
  else s

/-! ### The subscription calls (R239) -/

/-- `enable(L)` or `disable(L)` for both lines. -/
def setEnabled (b : Bool) (s : State) : State :=
  { s with sub := ⟨{ s.sub.press with enabled := b }, { s.sub.release with enabled := b }⟩ }

/-- `mark_wake(L)` or `unmark_wake(L)` for both lines. -/
def setWakeMarked (b : Bool) (s : State) : State :=
  { s with sub := ⟨{ s.sub.press with wakeMarked := b }, { s.sub.release with wakeMarked := b }⟩ }

/-- R174: the suspend procedure on the subscriptions; none of them where the controller is not active
(R177). `SHUTDOWN` re-runs it (R184). -/
def suspendSubs (s : State) : State :=
  if s.active then if s.wakeArmed then setWakeMarked true s else setEnabled false s else s

/-- R182: the resume procedure on the subscriptions, the "exact inverse". -/
def resumeSubs (s : State) : State :=
  if s.active then if s.wakeArmed then setWakeMarked false s else setEnabled true s else s

/-- `phase <- ph`. -/
def setPhase (ph : Phase) (s : State) : State := { s with phase := ph }

/-! ### The controller -/

/-- R210, R260: no controller: its fields as at reset. -/
def clearController (s : State) : State :=
  { s with
    controller := none, irqIds := none, wakeArmed := false, wakeCapable := false,
    sub := ⟨.absent, .absent⟩, ep := .none, capPowerKey := false }

/-- R204: the commit where the gate said "do not activate"; "everything else as at reset"
(log entry 10). -/
def commitInactive (c : Controller) (s : State) : State :=
  { clearController s with controller := some c }

/-- R204, R265: the commit after setup step 7. -/
def commitActive (c : Controller) (ids : IrqIds) (s : State) : State :=
  { s with
    controller := some c, irqIds := some ids, sub := ⟨.fresh, .fresh⟩, ep := .active,
    capPowerKey := true, wakeCapable := true, wakeArmed := false }

/-- R260: the reset of every field; the parameters, which reset does not touch (R264), the commands
still to come and the count of draws stay. `KEY`, `STCLR`, the release latch and the button take free
values of `REGW` bits, one bit and a level (log entry 5). -/
def resetAll (s : State) : State :=
  { State.resetWith s.params (toReg s.params (Config.drawKey s.draws))
      (toReg s.params (Config.drawStclr s.draws)) (Config.drawReleaseLatch s.draws)
      (Config.drawBtn s.draws) with
    draws := s.draws, pending := s.pending }

/-! ### Taking a command -/

/-- The command that comes next, taken off the port (R64: the order in which the agents act). -/
def takeCommand (s : State) : Option (Command × State) :=
  match s.pending with
  | [] => none
  | c :: rest => some (c, { s with pending := rest })

/-- Puts a command first on the port. -/
def putCommand (c : Command) (s : State) : State := { s with pending := c :: s.pending }

end Sys2Proof.Machine
end

