-- ==== Sys2Proof/Machine/Attach.lean ====
section
/-! DEFINITION. The registration gate, the setup protocol and detachment (spec/44): `GATE` (R200),
`ATTACH` (R204), `DETACH` (R210). -/

namespace Sys2Proof.Machine

/-- `GATE` (R200): the pure decision, in every phase but `PH_OFF`. -/
def execGate (gs a1 a2 : Bool) (s : State) : StepOutcome :=
  if s.phase = .off then refuse s else complete (boolWord (gateActivates gs a1 a2)) s

/-- R204, steps 1 to 7 (R205 to R209) in order, with the order of the lines from `SUB_ORDER`; the first
failing step decides the error, and every error leaves the state as it was (R211). -/
def setupController (a : AttachArg) (s : State) : StepOutcome :=
  let first := s.params.subFirst
  let second := otherLine first
  if !resolveOk a first then raise .resourceUnavailable (resolveFailed first) s
  else if !resolveOk a second then raise .resourceUnavailable (resolveFailed second) s
  else if !a.allocOk then raise .resourceExhausted 0 s
  else if !a.sub1Ok then raise .resourceUnavailable (subscribeFailed first) s
  else if !a.sub2Ok then raise .resourceUnavailable (subscribeFailed second) s
  else if !a.actOk then raise .resourceUnavailable activateFailed s
  else complete 1 (commitActive (attachController a) (attachIds a) s)

/-- `ATTACH` (R204): refused while attached, for a device type outside the static table (R203) and for
equal identifiers; where the gate declines it attaches without setup (R212). The guard is the
pseudocode's, which names no phase (log entry 11). -/
def execAttach (a : AttachArg) (s : State) : StepOutcome :=
  if s.attached then refuse s
  else if a.typeHigh ≠ 0 then refuse s
  else if !attachActivates a then complete 0 (commitInactive (attachController a) s)
  else if a.pid = a.rid then refuse s
  else setupController a s

/-- `DETACH` (R210): releases everything the controller holds; `KEY`, the latches, the button and the
sink stay. -/
def execDetach (s : State) : StepOutcome :=
  if s.mayMoveFrom .run then complete 0 (clearController s) else refuse s

end Sys2Proof.Machine
end

