-- ==== Sys2Proof/Machine/Calibration.lean ====
section
/-! DEFINITION. The calibration family (spec/41): `CALRD.ST`, `CALRD.SD` (R131), `CALWR.ST`,
`CALWR.SD` (R135). -/

namespace Sys2Proof.Machine

/-- R131 `CALRD.s`: reads `KEY` through the transport and decodes the setting's field; a failed read
is passed on verbatim (R132). -/
def calibrationRead (g : Setting) (tf : Bool) (s : State) : StepOutcome :=
  withController s fun c =>
    match memRead .key tf s with
    | .value r => complete (durationOf r (s.params.mask c.profile g) (s.params.table c.profile g)) s
    | .failed terr => raise .transportFailure terr (drawn s)

/-- R135 `CALWR.s`: writes the shifted index of the nearest duration under the setting's mask; a
rejected update is `InvalidInput` and changes nothing (R136, R137). -/
def calibrationWrite (g : Setting) (tf : Bool) (req : Word) (s : State) : StepOutcome :=
  withController s fun c =>
    let m := s.params.mask c.profile g
    let v := shiftedNearest req m (s.params.table c.profile g)
    match regUpdateBits .key m v tf s with
    | .done t => complete v t
    | .failed => raise .invalidInput 0 s

/-- `CALRD.ST` (R131). -/
def execCalrdSt (tf : Bool) (s : State) : StepOutcome := calibrationRead .st tf s

/-- `CALRD.SD` (R131). -/
def execCalrdSd (tf : Bool) (s : State) : StepOutcome := calibrationRead .sd tf s

/-- `CALWR.ST` (R135). -/
def execCalwrSt (tf : Bool) (req : Word) (s : State) : StepOutcome := calibrationWrite .st tf req s

/-- `CALWR.SD` (R135). -/
def execCalwrSd (tf : Bool) (req : Word) (s : State) : StepOutcome := calibrationWrite .sd tf req s

end Sys2Proof.Machine
end

