-- ==== Sys2Proof/Machine/Codec.lean ====
section
/-! DEFINITION. The codec family (spec/40): `DECODE.ST`, `DECODE.SD` (R118), `ENCODE.ST`,
`ENCODE.SD` (R124). -/

namespace Sys2Proof.Machine

/-- R118 `DECODE.s`: the duration the operand stands for under the attached profile; no register is
touched. -/
def decodeSetting (g : Setting) (r : Word) (s : State) : StepOutcome :=
  withController s fun c =>
    complete (durationOf (toReg s.params r) (s.params.mask c.profile g) (s.params.table c.profile g)) s

/-- R124 `ENCODE.s`: the shifted index of the nearest duration; no register is touched. -/
def encodeSetting (g : Setting) (req : Word) (s : State) : StepOutcome :=
  withController s fun c =>
    complete (shiftedNearest req (s.params.mask c.profile g) (s.params.table c.profile g)) s

/-- `DECODE.ST` (R118). -/
def execDecodeSt (r : Word) (s : State) : StepOutcome := decodeSetting .st r s

/-- `DECODE.SD` (R118). -/
def execDecodeSd (r : Word) (s : State) : StepOutcome := decodeSetting .sd r s

/-- `ENCODE.ST` (R124). -/
def execEncodeSt (req : Word) (s : State) : StepOutcome := encodeSetting .st req s

/-- `ENCODE.SD` (R124). -/
def execEncodeSd (req : Word) (s : State) : StepOutcome := encodeSetting .sd req s

end Sys2Proof.Machine
end

