-- ==== Sys2Proof/Machine/EdgeEvents.lean ====
section
/-! DEFINITION. The edge events (spec/42): the handler `IRQ` (R150), and the environment that invokes
it: `EDGE.F` (R156), `EDGE.R` (R157), `DELIVER.P`, `DELIVER.R` (R158), `FINISH.P`, `FINISH.R` (R159). -/

namespace Sys2Proof.Machine

/-- One invocation of the handler taken alone (R150); the same line is not re-entered (R153). -/
def invokeHandler (l : Line) (s : State) : StepOutcome :=
  if s.inflight.at l = .none then complete 0 (runHandler l s) else refuse s

/-- `IRQ` (R150): the handler for the identifier; the press identifier is compared first, and one
that matches neither subscription emits nothing (R154). -/
def execIrq (id : Word) (s : State) : StepOutcome :=
  match s.irqIds with
  | none => refuse s
  | some ids =>
    if s.phase = .off then refuse s
    else if id = ids.press then invokeHandler .press s
    else if id = ids.release then invokeHandler .release s
    else complete 0 s

/-- `EDGE.F` (R156): a falling edge, only from `HIGH`. -/
def execEdgeF (ld : Bool) (s : State) : StepOutcome :=
  if s.phase = .off ∨ s.btn ≠ .high then refuse s
  else complete 0 (latchEdge .press ld { s with btn := .low })

/-- `EDGE.R` (R157): a rising edge, only from `LOW`. -/
def execEdgeR (ld : Bool) (s : State) : StepOutcome :=
  if s.phase = .off ∨ s.btn ≠ .low then refuse s
  else complete 0 (latchEdge .release ld { s with btn := .high })

/-- R158 `DELIVER.L`: the interrupt subsystem takes a latched edge and enters the handler. -/
def deliver (l : Line) (s : State) : StepOutcome :=
  if s.deliverable l then complete 0 (enterHandler l s) else refuse s

/-- R159 `FINISH.L`: the handler's second emission and its return. -/
def finish (l : Line) (s : State) : StepOutcome :=
  if s.inflight.at l = .needSync ∧ s.phase ≠ .off then complete 0 (returnHandler l s) else refuse s

/-- `DELIVER.P` (R158). -/
def execDeliverP (s : State) : StepOutcome := deliver .press s

/-- `DELIVER.R` (R158). -/
def execDeliverR (s : State) : StepOutcome := deliver .release s

/-- `FINISH.P` (R159). -/
def execFinishP (s : State) : StepOutcome := finish .press s

/-- `FINISH.R` (R159). -/
def execFinishR (s : State) : StepOutcome := finish .release s

end Sys2Proof.Machine
end

