-- ==== Sys2Proof/Machine/PowerState.lean ====
section
/-! DEFINITION. The power-state arbiter (spec/43): `WAKEARM` (R172), `SUSPEND` (R174), `IRQOFF`
(R178), `RESUME_NOIRQ` (R180), `IRQON` (R181), `RESUME` (R182), `SHUTDOWN` (R184), over the phase
machine of R171. -/

namespace Sys2Proof.Machine

/-- `WAKEARM` (R172): sets `wake_armed`, in `PH_RUN`, on an active, wake-capable controller. -/
def execWakearm (b : Bool) (s : State) : StepOutcome :=
  if s.active && s.wakeCapable && s.phase == .run then complete 0 { s with wakeArmed := b }
  else refuse s

/-- `SUSPEND` (R174). -/
def execSuspend (s : State) : StepOutcome :=
  if s.mayMoveFrom .run then complete 0 (setPhase .suspended (suspendSubs s)) else refuse s

/-- `IRQOFF` (R178): the host turns its interrupt delivery off. -/
def execIrqoff (s : State) : StepOutcome :=
  if s.mayMoveFrom .suspended then complete 0 (setPhase .noirq s) else refuse s

/-- R180: the variant-specific step: where the variant has it and the status-clear access does not
fail, the press latch is cleared; a failure is not reported (R180, D21). -/
def clearWakeLatch (tf : Bool) (s : State) : State :=
  match s.controller with
  | none => s
  | some c => if c.latchClear && !tf then setPressLatch false s else s

/-- `RESUME_NOIRQ` (R180); that it too asks for no handler in progress is R171 (log entry 8). -/
def execResumeNoirq (tf : Bool) (s : State) : StepOutcome :=
  if s.mayMoveFrom .noirq then complete 0 (setPhase .noirqResumed (clearWakeLatch tf s)) else refuse s

/-- `IRQON` (R181): the host turns its interrupt delivery back on; with R171's guard (log entry 8). -/
def execIrqon (s : State) : StepOutcome :=
  if s.mayMoveFrom .noirqResumed then complete 0 (setPhase .irqResumed s) else refuse s

/-- `RESUME` (R182). -/
def execResume (s : State) : StepOutcome :=
  if s.mayMoveFrom .irqResumed then complete 0 (setPhase .run (resumeSubs s)) else refuse s

/-- `SHUTDOWN` (R184): "re-runs the suspend procedure as its last action"; `PH_OFF` is final. -/
def execShutdown (s : State) : StepOutcome :=
  if s.mayMoveFrom .run then complete 0 (setPhase .off (suspendSubs s)) else refuse s

end Sys2Proof.Machine
end

