-- ==== Sys2Proof/Machine/Reset.lean ====
section
/-! DEFINITION. The reset pin as an event (spec/70): `RESET` (R260). -/

namespace Sys2Proof.Machine

/-- `RESET` (R260), in every state, `PH_OFF` among them; what the spec leaves to draws takes free
values, and the draw is counted (log entry 20). -/
def execReset (s : State) : StepOutcome := complete 0 (drawn (resetAll s))

end Sys2Proof.Machine
end

