-- ==== Sys2Proof/Machine/Dispatch.lean ====
section
/-! DEFINITION. One arm per instruction of the opcode map (R91). -/

namespace Sys2Proof.Machine

def exec (i : Instr) (s : State) : Host.Outcome State Fault Refusal :=
  match i with
  | .decodeSt r => Sys2Proof.Machine.execDecodeSt r s
  | .decodeSd r => Sys2Proof.Machine.execDecodeSd r s
  | .encodeSt req => Sys2Proof.Machine.execEncodeSt req s
  | .encodeSd req => Sys2Proof.Machine.execEncodeSd req s
  | .calrdSt tf => Sys2Proof.Machine.execCalrdSt tf s
  | .calrdSd tf => Sys2Proof.Machine.execCalrdSd tf s
  | .calwrSt tf req => Sys2Proof.Machine.execCalwrSt tf req s
  | .calwrSd tf req => Sys2Proof.Machine.execCalwrSd tf req s
  | .irq id => Sys2Proof.Machine.execIrq id s
  | .wakearm b => Sys2Proof.Machine.execWakearm b s
  | .suspend => Sys2Proof.Machine.execSuspend s
  | .irqoff => Sys2Proof.Machine.execIrqoff s
  | .resumeNoirq tf => Sys2Proof.Machine.execResumeNoirq tf s
  | .irqon => Sys2Proof.Machine.execIrqon s
  | .resume => Sys2Proof.Machine.execResume s
  | .shutdown => Sys2Proof.Machine.execShutdown s
  | .gate gs a1 a2 => Sys2Proof.Machine.execGate gs a1 a2 s
  | .attach a => Sys2Proof.Machine.execAttach a s
  | .detach => Sys2Proof.Machine.execDetach s
  | .edgeF ld => Sys2Proof.Machine.execEdgeF ld s
  | .edgeR ld => Sys2Proof.Machine.execEdgeR ld s
  | .deliverP => Sys2Proof.Machine.execDeliverP s
  | .deliverR => Sys2Proof.Machine.execDeliverR s
  | .finishP => Sys2Proof.Machine.execFinishP s
  | .finishR => Sys2Proof.Machine.execFinishR s
  | .reset => Sys2Proof.Machine.execReset s

end Sys2Proof.Machine
end

