-- ==== Sys2Proof/Machine/Step.lean ====
section
/-! DEFINITION. One step of the block: it takes the next command, decodes it and runs it. -/

namespace Sys2Proof.Machine

/-- One step (R12, R64): the next command is taken off the port and run; a reserved one answers
`ILLEGAL_OP` (R93); with no command no agent acts and there is no step (R21, log entry 4). -/
def step (s : State) : Host.Outcome State Fault Refusal :=
  match takeCommand s with
  | none => .refused .noCommand
  | some (c, t) =>
    match decode c with
    | .ok i => exec i t
    | .error _ => illegalCommand t

/-- The state in which the very next step takes the command that the opcode table numbers `w`. -/
def State.withFetchWord (s : State) (nbits w : Nat) : State :=
  putCommand (Command.ofTableWord nbits w) s

end Sys2Proof.Machine
end

