-- ==== Sys2Proof/Machine/Text.lean ====
section
/-! DEFINITION. The calibration text surface: the grammar and the parser of a written text (R97, R98),
the rendering of a read (R99), and the two endpoints `startup` and `shutdown`, the pseudo-operations
of R101 (R139, R140). A text is a list of bytes. -/

namespace Sys2Proof.Machine

/-- R97: the bytes trimmed from both ends. -/
def isSpace (b : Byte) : Bool := b == 0x20 || (decide (0x09 ≤ b.toNat) && decide (b.toNat ≤ 0x0D))

/-- R97: the ASCII digits. -/
def isDigit (b : Byte) : Bool := decide (0x30 ≤ b.toNat) && decide (b.toNat ≤ 0x39)

/-- R97: the text without the whitespace at its two ends. -/
def trimSpaces (txt : List Byte) : List Byte :=
  ((txt.dropWhile isSpace).reverse.dropWhile isSpace).reverse

/-- R98: the base-10 number of a digit string, most significant digit first. -/
def decimalValue (ds : List Byte) : Nat := ds.foldl (fun v d => 10 * v + (d.toNat - 0x30)) 0

/-- R98 `parse_ms(txt)`: one or more digits after trimming, of a value below `2^32`; `none` is "not
parseable". -/
def parseMs (txt : List Byte) : Option Word :=
  let ds := trimSpaces txt
  if ds.isEmpty || !ds.all isDigit then none
  else if decimalValue ds < 2 ^ 32 then some (BitVec.ofNat 32 (decimalValue ds)) else none

/-- The shortest decimal spelling of a number below `10^fuel`, put before `acc`. -/
def decimalDigits : Nat → Nat → List Byte → List Byte
  | 0, _, acc => acc
  | fuel + 1, v, acc =>
    let acc' := BitVec.ofNat 8 (0x30 + v % 10) :: acc
    if v / 10 = 0 then acc' else decimalDigits fuel (v / 10) acc'

/-- R99 `render_ms(v)`: the shortest spelling (at most 10 digits), then one newline. -/
def renderMs (v : Word) : List Byte := decimalDigits 10 v.toNat [] ++ [0x0A]

/-- What a read of a text endpoint returns. -/
inductive TextRead where
  | text (bytes : List Byte)
  | failed (r : Response)
deriving DecidableEq, Repr

/-- What a write to a text endpoint returns: the number of bytes consumed (R100), or the error. -/
inductive TextWrite where
  | consumed (n : Nat)
  | failed (st : Status)
deriving DecidableEq, Repr

/-- R139: a read of endpoint `startup` or `shutdown`: `CALRD.s`, then its result as text; an error is
passed on and there is no text, and so is `REFUSED` (log entry 13). -/
def readEndpoint (g : Setting) (tf : Bool) (s : State) : Host.Outcome (TextRead × State) Fault Refusal :=
  match exec (calrdOf tf g) s with
  | .next t => .next (if t.resp.status = .ok then .text (renderMs t.resp.res) else .failed t.resp, t)
  | .fault f => .fault f
  | .refused r => .refused r

/-- R140: a write of a text to endpoint `startup` or `shutdown`: parsed first, and where that fails the
transport is not called; then `CALWR.s` (log entry 13). -/
def writeEndpoint (g : Setting) (tf : Bool) (txt : List Byte) (s : State) :
    Host.Outcome (TextWrite × State) Fault Refusal :=
  match parseMs txt with
  | none => .next (.failed .invalidInput, s)
  | some req =>
    match exec (calwrOf tf req g) s with
    | .next t => .next (if t.resp.status = .ok then .consumed txt.length else .failed t.resp.status, t)
    | .fault f => .fault f
    | .refused r => .refused r

end Sys2Proof.Machine
end

