-- ==== Sys2Proof/Machine/Asm.lean ====
section
/-! DEFINITION. The spec's spelling of an operation (R96): one line of ASCII bytes, `MNEMONIC
[operand] [!]`, to the command it stands for (log entry 14). -/

namespace Sys2Proof.Machine

/-- The ASCII bytes of a string. -/
def asciiBytes (s : String) : List Byte := s.toList.map fun c => BitVec.ofNat 8 c.toNat

/-- The words of a line, cut at spaces. -/
def splitAtByte (sep : Byte) : List Byte → List (List Byte)
  | [] => [[]]
  | b :: bs =>
    match splitAtByte sep bs with
    | [] => [[b]]
    | w :: ws => if b == sep then [] :: w :: ws else (b :: w) :: ws

/-- The value of one hexadecimal digit. -/
def hexDigit (b : Byte) : Option Nat :=
  if isDigit b then some (b.toNat - 0x30)
  else if 0x61 ≤ b.toNat ∧ b.toNat ≤ 0x66 then some (b.toNat - 0x61 + 10)
  else if 0x41 ≤ b.toNat ∧ b.toNat ≤ 0x46 then some (b.toNat - 0x41 + 10)
  else none

/-- The value of a hexadecimal digit string. -/
def hexValue : List Byte → Nat → Option Nat
  | [], v => some v
  | b :: bs, v =>
    match hexDigit b with
    | some d => hexValue bs (16 * v + d)
    | none => none

/-- R96: a number, decimal or `0x` hexadecimal. -/
def parseNumber : List Byte → Option Nat
  | 0x30#8 :: 0x78#8 :: d :: ds => hexValue (d :: ds) 0
  | [] => none
  | ds => if ds.all isDigit then some (decimalValue ds) else none

/-- R103: where a named field of `ATTACH` stands in `ARG`, and its width. -/
def attachFields : List (String × Nat × Nat) :=
  [("VID", 0, 1), ("gate_special", 4, 1), ("latch_clear", 5, 1), ("fw_alt1", 6, 1)]
    ++ [("fw_alt2", 7, 1), ("res_release_ok", 8, 1), ("res_press_ok", 9, 1), ("alloc_ok", 10, 1)]
    ++ [("sub1_ok", 11, 1), ("sub2_ok", 12, 1), ("act_ok", 13, 1), ("pid", 16, 8), ("rid", 24, 8)]

/-- R96: "unnamed fields being 0 except the six `_ok` draws, which default to 1". -/
def attachDefault : Nat := 0x3F00

/-- Puts a value of `n` bits at bit `k` of a number. -/
def putField (a k n v : Nat) : Nat := a % 2 ^ k + v * 2 ^ k + a / 2 ^ (k + n) * 2 ^ (k + n)

/-- R96: the `name=value` pairs of `ATTACH`, over the defaults. -/
def assembleAttach : List (List Byte) → Nat → Option Nat
  | [], a => some a
  | w :: ws, a =>
    match splitAtByte 0x3D w with
    | [name, value] =>
      match attachFields.find? fun f => asciiBytes f.1 == name, parseNumber value with
      | some (_, k, n), some v => if v < 2 ^ n then assembleAttach ws (putField a k n v) else none
      | _, _ => none
    | _ => none

/-- R96: the operand words of a line; for `ATTACH` a number or pairs, else at most one number. -/
def assembleOperand (o : Op) (ws : List (List Byte)) : Option Nat :=
  match ws with
  | [] => some (if o = .attach then attachDefault else 0)
  | [w] =>
    match parseNumber w with
    | some v => some v
    | none => if o = .attach then assembleAttach [w] attachDefault else none
  | ws => if o = .attach then assembleAttach ws attachDefault else none

/-- R96: a line to its command: the mnemonic, the operand, and a trailing `!` that sets `DRW`. -/
def assemble (line : List Byte) : Option Command :=
  match (splitAtByte 0x20 line).filter fun w => !w.isEmpty with
  | [] => none
  | m :: ws =>
    let drw := ws.getLast? == some [0x21]
    let operands := if drw then ws.dropLast else ws
    match Op.all.find? fun o => asciiBytes o.mnemonic == m with
    | none => none
    | some o =>
      match assembleOperand o operands with
      | some v => if v < 2 ^ 32 then some ⟨o.pattern ||| byteBit drw 3, BitVec.ofNat 32 v⟩ else none
      | none => none

end Sys2Proof.Machine
end

