-- ==== Sys2Proof/Safety.lean ====
section
/-! DEFINITION. The terms in which claims are stated: a step the block accepted, the invariant of R34
and R39, the balance of the sink (R162), runs of environment events and of accepted operations, and
the position of a mask's lowest bit (R10) and an error of the codec (R119) said without the model's
own functions. -/

namespace Sys2Proof.Machine

/-- R236: the block accepted the last command; a run that holds a `REFUSED` or an `ILLEGAL_OP` is one
"about which nothing is claimed". -/
def State.accepted (s : State) : Bool := s.resp.status != .refused && s.resp.status != .illegalOp

/-- R39, R34: what holds of every reachable state. The last four clauses are the model's own (log
entry 19), needed for the rest to be kept by every step: what the subscriptions are while the host is
not running (R174, R182, R184), that a handler in progress belongs to an active controller in a phase
with the interrupts on (R158, R171, R210), and that a register holds `REGW` bits (R22, R26). -/
structure Inv (s : State) : Prop where
  active_attached : s.active = true → s.attached = true
  subscribed_eq : ∀ l, (s.sub.at l).subscribed = s.active
  capable_eq : s.wakeCapable = s.active
  armed_active : s.wakeArmed = true → s.active = true
  enabled_subscribed : ∀ l, (s.sub.at l).enabled = true → (s.sub.at l).subscribed = true
  marked_armed : ∀ l, (s.sub.at l).wakeMarked = true → (s.sub.at l).subscribed = true ∧ s.wakeArmed = true
  ids_differ : ∀ ids, s.irqIds = some ids → ids.press ≠ ids.release
  lines_enabled : s.sub.press.enabled = s.sub.release.enabled
  lines_marked : s.sub.press.wakeMarked = s.sub.release.wakeMarked
  phase_attached : s.phase ≠ .run → s.attached = true
  running : s.phase = .run → s.active = true → ∀ l, (s.sub.at l).enabled = true ∧ (s.sub.at l).wakeMarked = false
  endpoint_eq : s.ep = if s.active then .active else .none
  capability_eq : s.capPowerKey = s.active
  not_running : s.phase ≠ .run → s.active = true →
    ∀ l, (s.sub.at l).enabled = s.wakeArmed ∧ (s.sub.at l).wakeMarked = s.wakeArmed
  inflight_active : ∀ l, s.inflight.at l = .needSync → s.active = true ∧ s.phase.irqsOn = true
  key_width : s.key.toNat < 2 ^ s.params.regw
  stclr_width : s.stclr.toNat < 2 ^ s.params.regw

/-- An event that reports the key. -/
def Event.isKey : Event → Bool
  | .key _ _ => true
  | .sync => false

/-- The `SYNC` events a line's handler still owes (R38). -/
def Inflight.owed : Inflight → Nat
  | .none => 0
  | .needSync => 1

/-- How many handlers are in progress. -/
def State.inflightCount (s : State) : Nat := s.inflight.press.owed + s.inflight.release.owed

/-- R162: every `KEY` event has its `SYNC`, but for the handlers still in progress. -/
def SinkBalanced (s : State) : Prop :=
  s.sink.countP (fun e => e.isKey) = s.sink.countP (fun e => !e.isKey) + s.inflightCount

/-- The events of the button line and of the interrupt subsystem (R156 to R159), as against the
commands of the host and the reset pin. -/
def isEdgeEvent : Instr → Bool
  | .edgeF _ | .edgeR _ | .deliverP | .deliverR | .finishP | .finishR => true
  | .decodeSt _ | .decodeSd _ | .encodeSt _ | .encodeSd _ | .calrdSt _ | .calrdSd _ => false
  | .calwrSt _ _ | .calwrSd _ _ | .irq _ | .wakearm _ | .suspend | .irqoff | .resumeNoirq _ => false
  | .irqon | .resume | .shutdown | .gate _ _ _ | .attach _ | .detach | .reset => false

/-- The operation runs in `s`, the block accepts it, and `t` is the next state. -/
def Accepts (s : State) (i : Instr) (t : State) : Prop := exec i s = .next t ∧ t.accepted = true

/-- R64, R236: `t` is reached from `s` by steps of the allowed instructions, in any number and order,
each of them accepted: nothing is claimed of a run that holds a `REFUSED` (log entry 7). -/
inductive AcceptedRun (allowed : Instr → Bool) (s : State) : State → Prop where
  | refl : AcceptedRun allowed s s
  | snoc (t u : State) (i : Instr) : AcceptedRun allowed s t → allowed i = true → Accepts t i u →
      AcceptedRun allowed s u

/-- `t` is reached from `s` by edges, deliveries and finishes. -/
abbrev EdgeRun (s t : State) : Prop := AcceptedRun isEdgeEvent s t

/-- `t` is reached from `s` with no `RESUME` and no `RESET` on the way. -/
abbrev RunBeforeResume (s t : State) : Prop := AcceptedRun (fun i => i != .resume && i != .reset) s t

/-- R91: the columns "CMD match" and "CMD mask", written out once more from the rule's own table. -/
def opcodeMap : List (Byte × Byte) :=
  [(0x10, 0xFF), (0x11, 0xFF), (0x20, 0xFF), (0x21, 0xFF), (0x30, 0xF7), (0x31, 0xF7), (0x40, 0xF7)]
    ++ [(0x41, 0xF7), (0x50, 0xFF), (0x60, 0xFF), (0x61, 0xFF), (0x62, 0xFF), (0x63, 0xF7), (0x64, 0xFF)]
    ++ [(0x65, 0xFF), (0x66, 0xFF), (0x70, 0xFF), (0x71, 0xFF), (0x72, 0xFF), (0x80, 0xF7), (0x81, 0xF7)]
    ++ [(0x82, 0xFF), (0x83, 0xFF), (0x84, 0xFF), (0x85, 0xFF), (0xF0, 0xFF)]

/-- R90, R103: the bits of `ARG` that carry an operand of the instruction; all others are ignored. That
`DECODE.s` ignores `ARG[31:REGW]` too is a matter of its meaning (R118). -/
def operandBits : Instr → Word
  | .decodeSt _ | .decodeSd _ | .encodeSt _ | .encodeSd _ | .calwrSt _ _ | .calwrSd _ _ | .irq _ => 0xFFFFFFFF
  | .wakearm _ => 0x00000001
  | .gate _ _ _ => 0x00000007
  | .attach _ => 0xFFFF3FFF
  | .calrdSt _ | .calrdSd _ | .suspend | .irqoff | .resumeNoirq _ | .irqon | .resume | .shutdown => 0
  | .detach | .edgeF _ | .edgeR _ | .deliverP | .deliverR | .finishP | .finishR | .reset => 0

/-- R171: the moves of the phase machine, as the rule's table has them (from, to). -/
def phaseMove (i : Instr) (ph ph' : Phase) : Prop :=
  (i = .suspend ∧ ph = .run ∧ ph' = .suspended) ∨ (i = .irqoff ∧ ph = .suspended ∧ ph' = .noirq)
    ∨ ((∃ tf, i = .resumeNoirq tf) ∧ ph = .noirq ∧ ph' = .noirqResumed)
    ∨ (i = .irqon ∧ ph = .noirqResumed ∧ ph' = .irqResumed)
    ∨ (i = .resume ∧ ph = .irqResumed ∧ ph' = .run) ∨ (i = .shutdown ∧ ph = .run ∧ ph' = .off)

/-- R10: `k` is the position of the lowest set bit of `m`. -/
def IsLowestBit (m : Word) (k : Nat) : Prop := m.getLsbD k = true ∧ ∀ j, j < k → m.getLsbD j = false

/-- R119, R111: the error of an entry for a request, as an exact integer difference. -/
def errorOf (e : DurationEntry) (req : Word) : Nat := ((e.durationMs.toNat : Int) - req.toNat).natAbs

end Sys2Proof.Machine
end

