-- ==== Sys2Proof/Certificates/Slice0/Obligations.lean ====
section
/-! DEFINITION. The statements for the provers. Where a statement gives a next state as
`{ s with … }`, that equation is also its frame: every field not named keeps its value. A rule that
the spec marks `[decision: …]` or `[derived: …]` is the spec's own choice or inference; the docstring
then says so. -/

open Sys2Proof Sys2Proof.Machine

/-! ### Encodings and the step -/

/-- R91, R96, R103: command words written out bit by bit from the opcode map stand for their
instructions. -/
def Obligations.OpcodeMapWordsDecode : Prop :=
  decode ⟨0b00010001#8, 0xFE⟩ = .ok (.decodeSd 0xFE)
    ∧ decode ⟨0b00100000#8, 2500⟩ = .ok (.encodeSt 2500)
    ∧ decode ⟨0b00111000#8, 0⟩ = .ok (.calrdSt true)
    ∧ decode ⟨0b01000001#8, 0x5DC⟩ = .ok (.calwrSd false 1500)
    ∧ decode ⟨0b01010000#8, 7⟩ = .ok (.irq 7)
    ∧ decode ⟨0b01101011#8, 0⟩ = .ok (.resumeNoirq true)
    ∧ decode ⟨0b01110000#8, 3⟩ = .ok (.gate true true false)
    ∧ decode ⟨0b10001001#8, 0⟩ = .ok (.edgeR true)
    ∧ decode ⟨0b11110000#8, 0⟩ = .ok .reset
    ∧ decode ⟨0b01110001#8, 0x08073D21⟩
        = .ok (.attach ⟨true, 0, false, true, false, false, true, false, true, true, true, true, 7, 8⟩)

/-- R86, R90, R91, R103: decoding the command word of any instruction, with every operand at every
value, gives the instruction back. -/
def Obligations.EncodeThenDecodeIsIdentity : Prop := ∀ i : Instr, decode (encode i) = .ok i

/-- R91, R90, R103: the other direction. A command that decodes to `i` has the `CMD` the encoder gives
`i`; of its `ARG` the encoder keeps exactly the bits R90 and R103 name for the row, `operandBits`; and
with these bits alone it decodes to `i` again, so all other bits are ignored. -/
def Obligations.DecodedCommandsReencode : Prop :=
  ∀ (c : Command) (i : Instr), decode c = .ok i →
    (encode i).cmd = c.cmd ∧ (encode i).arg = c.arg &&& operandBits i
      ∧ decode ⟨c.cmd, c.arg &&& operandBits i⟩ = .ok i

/-- R93: every `CMD` that no row of R91 selects ends with `ILLEGAL_OP`, `RES = 0` and no change of
state, and every other `CMD` is an instruction. -/
def Obligations.ReservedCommandsAnswerIllegalOp : Prop :=
  ∀ (s : State) (c : Command) (rest : List Command), s.pending = c :: rest →
    ((∀ row ∈ opcodeMap, c.cmd &&& row.2 ≠ row.1) →
      step s = .next { s with pending := rest, resp := ⟨.illegalOp, 0⟩ })
    ∧ ((∃ row ∈ opcodeMap, c.cmd &&& row.2 = row.1) → ∃ i, decode c = .ok i)

/-- R12, R21, R64: a step runs the instruction the next command decodes to, on the state without that
command; where no agent acts there is no step (log entry 4). -/
def Obligations.StepRunsTheDecodedInstruction : Prop :=
  (∀ (s : State) (c : Command) (rest : List Command) (i : Instr), s.pending = c :: rest →
      decode c = .ok i → step s = exec i { s with pending := rest })
    ∧ ∀ s : State, s.pending = [] → step s = .refused .noCommand

/-- R12, R57, R88: in every state every instruction ends with a next state (and so with a response):
none faults and none is refused by the model. -/
def Obligations.EveryInstructionAnswersANextState : Prop :=
  ∀ (i : Instr) (s : State), ∃ t, exec i s = .next t

/-- R12: "A step that ends in `REFUSED` or `ILLEGAL_OP` changes nothing", and `RES` is 0 (R90). -/
def Obligations.TurnedAwayStepsChangeNothing : Prop :=
  ∀ (s t : State) (c : Command) (rest : List Command), s.pending = c :: rest → step s = .next t →
    t.accepted = false → t = { s with pending := rest, resp := ⟨t.resp.status, 0⟩ }

/-- R230: an operation that ends with an error kind leaves the state unchanged; the response and the
count of draws (the model's own field, log entry 5) are all that differ. -/
def Obligations.ErrorsChangeNothing : Prop :=
  ∀ (i : Instr) (s t : State), exec i s = .next t →
    t.resp.status ∈ [Status.invalidInput, .resourceUnavailable, .resourceExhausted, .transportFailure] →
    t = { s with resp := t.resp, draws := t.draws }

/-! ### The codec -/

/-- R118: `DECODE.s`. -/
def Obligations.DecodeOperation : Prop :=
  ∀ (s : State) (g : Setting) (r : Word),
    encode (decodeOf r g) = ⟨if g = .st then 0x10 else 0x11, r⟩
    ∧ (s.attached = false ∨ s.phase = .off →
        exec (decodeOf r g) s = .next { s with resp := ⟨.refused, 0⟩ })
    ∧ ∀ c, s.controller = some c → s.phase ≠ .off →
        exec (decodeOf r g) s = .next { s with
          resp := ⟨.ok, durationOf (BitVec.ofNat 32 (r.toNat % 2 ^ s.params.regw))
            (s.params.mask c.profile g) (s.params.table c.profile g)⟩ }

/-- R115, R116: `decode(R, m, t)`. The value extracted is looked up as an index: the one entry that has
it gives the duration, and where none has it the extracted value is returned; bits outside the mask
have no effect. -/
def Obligations.DecodeLooksUpTheField : Prop :=
  ∀ (r m : Word) (t : Table) (k : Nat), IsLowestBit m k →
    (∀ p : Fin 4, (t.at p).index.setWidth 32 = (r &&& m) >>> k →
        (∀ q : Fin 4, q ≠ p → (t.at q).index ≠ (t.at p).index) →
        durationOf r m t = (t.at p).durationMs)
    ∧ ((∀ p : Fin 4, (t.at p).index.setWidth 32 ≠ (r &&& m) >>> k) → durationOf r m t = (r &&& m) >>> k)
    ∧ ∀ r' : Word, r' &&& m = r &&& m → durationOf r' m t = durationOf r m t

/-- R115 (the spec's own decision D8): where several entries have the extracted index, the one at the
lowest position is returned. -/
def Obligations.DecodeTakesTheLowestPositionOfADuplicate : Prop :=
  ∀ (r m : Word) (t : Table) (k : Nat) (p q : Fin 4), IsLowestBit m k → p < q →
    (t.at p).index = (t.at q).index → (t.at p).index.setWidth 32 = (r &&& m) >>> k →
    (∀ u : Fin 4, u < p → (t.at u).index ≠ (t.at p).index) → durationOf r m t = (t.at p).durationMs

/-- R117 (derived in the spec): with a well-formed table and a contiguous mask of two bits the fallback
never fires. -/
def Obligations.FallbackNeverFiresOnTwoBitFields : Prop :=
  ∀ (regw : Nat) (r m : Word) (t : Table), regw ≤ 30 → t.wf = true → maskWf regw m = true →
    maskWidth m = 2 → ∃ p : Fin 4, durationOf r m t = (t.at p).durationMs

/-- R124: `ENCODE.s`. -/
def Obligations.EncodeOperation : Prop :=
  ∀ (s : State) (g : Setting) (req : Word),
    encode (encodeOf req g) = ⟨if g = .st then 0x20 else 0x21, req⟩
    ∧ (s.attached = false ∨ s.phase = .off →
        exec (encodeOf req g) s = .next { s with resp := ⟨.refused, 0⟩ })
    ∧ ∀ c, s.controller = some c → s.phase ≠ .off →
        exec (encodeOf req g) s = .next { s with
          resp := ⟨.ok, shiftedNearest req (s.params.mask c.profile g) (s.params.table c.profile g)⟩ }

/-- R122: `encode(req, m, t) = nearest(req, t) << lsb(m)`. -/
def Obligations.EncodeShiftsTheNearestIndex : Prop :=
  ∀ (req m : Word) (t : Table) (k : Nat), IsLowestBit m k →
    shiftedNearest req m t = (nearest req t).setWidth 32 <<< k

/-- R120 (the closed form the spec derives from R119): the winner is the entry at the highest position
among those of least error, for every table. -/
def Obligations.NearestIsTheHighestPositionOfLeastError : Prop :=
  ∀ (req : Word) (t : Table), ∃ p : Fin 4, nearest req t = (t.at p).index
    ∧ (∀ q : Fin 4, errorOf (t.at p) req ≤ errorOf (t.at q) req)
    ∧ ∀ q : Fin 4, p < q → errorOf (t.at p) req < errorOf (t.at q) req

/-- R126 (derived in the spec): under `TableWF` the thresholds between neighbouring positions are the
midpoints, rounded up. -/
def Obligations.NearestThresholdsAreRoundedUpMidpoints : Prop :=
  ∀ (req : Word) (t : Table), t.wf = true →
    (2 * req.toNat < t.pos0.durationMs.toNat + t.pos1.durationMs.toNat → nearest req t = t.pos0.index)
    ∧ (t.pos0.durationMs.toNat + t.pos1.durationMs.toNat ≤ 2 * req.toNat →
        2 * req.toNat < t.pos1.durationMs.toNat + t.pos2.durationMs.toNat → nearest req t = t.pos1.index)
    ∧ (t.pos1.durationMs.toNat + t.pos2.durationMs.toNat ≤ 2 * req.toNat →
        2 * req.toNat < t.pos2.durationMs.toNat + t.pos3.durationMs.toNat → nearest req t = t.pos2.index)
    ∧ (t.pos2.durationMs.toNat + t.pos3.durationMs.toNat ≤ 2 * req.toNat → nearest req t = t.pos3.index)

/-- R125: the round trip through mask and shift, in the reading the spec gives it, with any bits
outside the mask; and in the other direction. -/
def Obligations.TableEntriesRoundTrip : Prop :=
  ∀ (regw : Nat) (m base : Word) (t : Table) (p : Fin 4), regw ≤ 30 → t.wf = true →
    maskWf regw m = true → base &&& m = 0 →
    durationOf (base ||| shifted (t.at p).index m) m t = (t.at p).durationMs
    ∧ nearest (t.at p).durationMs t = (t.at p).index
    ∧ durationOf (shiftedNearest (t.at p).durationMs m t) m t = (t.at p).durationMs

/-! ### The register transport and calibration -/

/-- R59: `RegUpdateBits`. Only the bits in the mask change, and a failed update changes nothing. -/
def Obligations.UpdateBitsWritesOnlyTheMask : Prop :=
  ∀ (s : State) (r : Register) (m v : Word),
    (∃ w, regUpdateBits r m v false s = .done (writeRegister r w s)
      ∧ ∀ j, w.getLsbD j = if m.getLsbD j then v.getLsbD j else (readRegister r s).getLsbD j)
    ∧ regUpdateBits r m v true s = .failed

/-- R58, with R55 (the two registers stay two whatever the numbers of their addresses are): `MemRead`
gives the content of the register, or the transport's error value (a free value, log entry 5, of 32
bits, log entry 15). -/
def Obligations.MemReadGivesTheRegister : Prop :=
  ∀ s : State,
    memRead .key false s = .value s.key
    ∧ memRead .stclr false s = .value s.stclr
    ∧ ∀ r : Register, memRead r true s = .failed (Config.drawTerr s.draws)

/-- R131, R132: `CALRD.s`. The guard is the spec's own decision D14, D25 (R142), and that `REFUSED` is a
next state log entry 7. The error value is the free value of this draw (log entry 5), taken to be of 32
bits (log entry 15); the count of draws is the model's own field. -/
def Obligations.CalibrationReadOperation : Prop :=
  ∀ (s : State) (g : Setting) (tf : Bool),
    encode (calrdOf tf g) = ⟨(if g = .st then 0x30 else 0x31) ||| (if tf then 0x08 else 0), 0⟩
    ∧ (s.attached = false ∨ s.phase = .off →
        exec (calrdOf tf g) s = .next { s with resp := ⟨.refused, 0⟩ })
    ∧ ∀ c, s.controller = some c → s.phase ≠ .off →
        exec (calrdOf tf g) s = .next (if tf
          then { s with resp := ⟨.transportFailure, Config.drawTerr s.draws⟩, draws := s.draws + 1 }
          else { s with
            resp := ⟨.ok, durationOf s.key (s.params.mask c.profile g) (s.params.table c.profile g)⟩ })

/-- R135, R136, R137: `CALWR.s`. The guard is the spec's own decision D14, D25 (R142), and that `REFUSED`
is a next state log entry 7; that `RES` carries the shifted index is D24; that the update is one step is
D18 (log entry 12). -/
def Obligations.CalibrationWriteOperation : Prop :=
  ∀ (s : State) (g : Setting) (tf : Bool) (req : Word),
    encode (calwrOf tf req g) = ⟨(if g = .st then 0x40 else 0x41) ||| (if tf then 0x08 else 0), req⟩
    ∧ (s.attached = false ∨ s.phase = .off →
        exec (calwrOf tf req g) s = .next { s with resp := ⟨.refused, 0⟩ })
    ∧ ∀ c, s.controller = some c → s.phase ≠ .off →
        ∀ m v, m = s.params.mask c.profile g →
          v = shiftedNearest req m (s.params.table c.profile g) →
        exec (calwrOf tf req g) s = .next (if tf then { s with resp := ⟨.invalidInput, 0⟩ }
          else { s with key := (s.key &&& ~~~m) ||| (v &&& m), resp := ⟨.ok, v⟩ })

/-- R138 (derived in the spec): what a write stores is what a read gives back, the table duration
nearest to the request with ties to the higher position, and the other setting reads as before. -/
def Obligations.CalibrationWriteThenRead : Prop :=
  ∀ (s : State) (c : Controller) (g : Setting) (req : Word), s.controller = some c → s.phase ≠ .off →
    s.params.profileWf c.profile = true →
    ∃ t u, exec (calwrOf false req g) s = .next t ∧ t.resp.status = .ok
      ∧ exec (calrdOf false g) t = .next u
      ∧ (∃ p : Fin 4, u.resp = ⟨.ok, ((s.params.table c.profile g).at p).durationMs⟩
          ∧ (∀ q : Fin 4, errorOf ((s.params.table c.profile g).at p) req
              ≤ errorOf ((s.params.table c.profile g).at q) req)
          ∧ ∀ q : Fin 4, p < q → errorOf ((s.params.table c.profile g).at p) req
              < errorOf ((s.params.table c.profile g).at q) req)
      ∧ ∀ g', g' ≠ g → ∃ v w, exec (calrdOf false g') s = .next v ∧ exec (calrdOf false g') t = .next w
          ∧ w.resp = v.resp

/-- R66 (derived in the spec): two writes of one setting race with exactly two outcomes: `KEY` ends as
the later one alone would leave it, and both answer `OK`. -/
def Obligations.LastWriterOfASettingWins : Prop :=
  ∀ (s : State) (c : Controller) (g : Setting) (r1 r2 : Word), s.controller = some c →
    s.phase ≠ .off →
    ∃ t u v, exec (calwrOf false r1 g) s = .next t ∧ t.resp.status = .ok
      ∧ exec (calwrOf false r2 g) t = .next u ∧ u.resp.status = .ok
      ∧ exec (calwrOf false r2 g) s = .next v ∧ u = v

/-- R65: startup and shutdown writes may run in either order, "since they touch disjoint hardware
fields": the two orders leave the same state but for the last response. -/
def Obligations.WritesOfTheTwoSettingsCommute : Prop :=
  ∀ (s : State) (c : Controller) (r1 r2 : Word), s.controller = some c → s.phase ≠ .off →
    s.params.profileWf c.profile = true →
    ∃ a ab b ba, exec (.calwrSt false r1) s = .next a ∧ exec (.calwrSd false r2) a = .next ab
      ∧ exec (.calwrSd false r2) s = .next b ∧ exec (.calwrSt false r1) b = .next ba
      ∧ { ab with resp := ba.resp } = ba

/-- R22, R25, R26, R59: the frame of the register space. A read of either register gives what it gave
before, but for `KEY` after a `CALWR.s`, which keeps its bits outside the mask; for `STCLR` after a
falling edge, a press delivery or `RESUME_NOIRQ`, which keep its bits other than the press latch; and
after `RESET`. -/
def Obligations.RegistersChangeOnlyWhereTheRulesWrite : Prop :=
  ∀ (i : Instr) (s t : State), exec i s = .next t →
    (∀ r : Register, memRead r false t ≠ memRead r false s →
        i = .reset
        ∨ (r = .key ∧ ∃ tf req g, i = calwrOf tf req g)
        ∨ (r = .stclr ∧ ((∃ ld, i = .edgeF ld) ∨ i = .deliverP ∨ ∃ tf, i = .resumeNoirq tf)))
    ∧ (∀ tf req g c, i = calwrOf tf req g → s.controller = some c →
        ∀ j, (s.params.mask c.profile g).getLsbD j = false → t.key.getLsbD j = s.key.getLsbD j)
    ∧ (i ≠ .reset → ∀ j, j ≠ s.params.pressLatchBit → t.stclr.getLsbD j = s.stclr.getLsbD j)

/-! ### The edge handler and its environment -/

/-- R150, R151, R152, R154: `IRQ`. -/
def Obligations.IrqRunsTheHandler : Prop :=
  ∀ (s : State) (id : Word),
    encode (.irq id) = ⟨0x50, id⟩
    ∧ (s.active = false ∨ s.phase = .off → exec (.irq id) s = .next { s with resp := ⟨.refused, 0⟩ })
    ∧ ∀ ids, s.irqIds = some ids → s.phase ≠ .off →
        exec (.irq id) s = .next (
          if id = ids.press then
            if s.inflight.press = .none then
              { s with sink := s.sink ++ [.key .power true, .sync], resp := ⟨.ok, 0⟩ }
            else { s with resp := ⟨.refused, 0⟩ }
          else if id = ids.release then
            if s.inflight.release = .none then
              { s with sink := s.sink ++ [.key .power false, .sync], resp := ⟨.ok, 0⟩ }
            else { s with resp := ⟨.refused, 0⟩ }
          else { s with resp := ⟨.ok, 0⟩ })

/-- R156 (the spec's own decision D29, D30): `EDGE.F`. The latch is one bit of `STCLR`; its other bits
stay. -/
def Obligations.FallingEdgeOperation : Prop :=
  ∀ (s : State) (ld : Bool),
    encode (.edgeF ld) = ⟨if ld then 0x88 else 0x80, 0⟩
    ∧ (s.phase = .off ∨ s.btn ≠ .high → exec (.edgeF ld) s = .next { s with resp := ⟨.refused, 0⟩ })
    ∧ (s.phase ≠ .off → s.btn = .high → ∃ w,
        exec (.edgeF ld) s = .next { s with btn := .low, stclr := w, resp := ⟨.ok, 0⟩ }
        ∧ (∀ j, j ≠ s.params.pressLatchBit → w.getLsbD j = s.stclr.getLsbD j)
        ∧ w.getLsbD s.params.pressLatchBit
            = (s.pressLatch || (s.sub.press.subscribed && s.sub.press.enabled) || ld))

/-- R157 (the spec's own decision D29, D30): `EDGE.R`. -/
def Obligations.RisingEdgeOperation : Prop :=
  ∀ (s : State) (ld : Bool),
    encode (.edgeR ld) = ⟨if ld then 0x89 else 0x81, 0⟩
    ∧ (s.phase = .off ∨ s.btn ≠ .low → exec (.edgeR ld) s = .next { s with resp := ⟨.refused, 0⟩ })
    ∧ (s.phase ≠ .off → s.btn = .low →
        exec (.edgeR ld) s = .next { s with
          btn := .high,
          releaseLatch := s.releaseLatch || (s.sub.release.subscribed && s.sub.release.enabled) || ld,
          resp := ⟨.ok, 0⟩ })

/-- R158, R160, R244, R245 (the spec's own decision D31): `DELIVER.L` is possible exactly where its
guard holds; it enters the handler, which clears the line's latch and emits the key event. -/
def Obligations.DeliverOperation : Prop :=
  ∀ s : State,
    encode .deliverP = ⟨0x82, 0⟩ ∧ encode .deliverR = ⟨0x83, 0⟩
    ∧ (s.active = true → s.sub.press.subscribed = true → s.sub.press.enabled = true →
        s.pressLatch = true → s.inflight.press = .none → s.phase ∈ [Phase.run, .suspended, .irqResumed] →
        ∃ w, exec .deliverP s = .next { s with
            stclr := w, sink := s.sink ++ [.key .power true],
            inflight := ⟨.needSync, s.inflight.release⟩, resp := ⟨.ok, 0⟩ }
          ∧ w.getLsbD s.params.pressLatchBit = false
          ∧ ∀ j, j ≠ s.params.pressLatchBit → w.getLsbD j = s.stclr.getLsbD j)
    ∧ (s.active = true → s.sub.release.subscribed = true → s.sub.release.enabled = true →
        s.releaseLatch = true → s.inflight.release = .none →
        s.phase ∈ [Phase.run, .suspended, .irqResumed] →
        exec .deliverR s = .next { s with
          releaseLatch := false, sink := s.sink ++ [.key .power false],
          inflight := ⟨s.inflight.press, .needSync⟩, resp := ⟨.ok, 0⟩ })
    ∧ ∀ l : Line, s.active = false ∨ (s.sub.at l).subscribed = false ∨ (s.sub.at l).enabled = false
          ∨ s.latch l = false ∨ s.inflight.at l ≠ .none ∨ s.phase ∉ [Phase.run, .suspended, .irqResumed] →
        exec (deliverOf l) s = .next { s with resp := ⟨.refused, 0⟩ }

/-- R159, R246 (the spec's own decision D28): `FINISH.L` emits the handler's `SYNC`. -/
def Obligations.FinishOperation : Prop :=
  ∀ s : State,
    encode .finishP = ⟨0x84, 0⟩ ∧ encode .finishR = ⟨0x85, 0⟩
    ∧ (s.inflight.press = .needSync → s.phase ≠ .off →
        exec .finishP s = .next { s with
          sink := s.sink ++ [.sync], inflight := ⟨.none, s.inflight.release⟩, resp := ⟨.ok, 0⟩ })
    ∧ (s.inflight.release = .needSync → s.phase ≠ .off →
        exec .finishR s = .next { s with
          sink := s.sink ++ [.sync], inflight := ⟨s.inflight.press, .none⟩, resp := ⟨.ok, 0⟩ })
    ∧ ∀ l : Line, s.inflight.at l ≠ .needSync ∨ s.phase = .off →
        exec (finishOf l) s = .next { s with resp := ⟨.refused, 0⟩ }

/-- R163 (derived in the spec): a delivery followed at once by its finish appends what `IRQ` with the
line's identifier appends, and in addition clears the line's latch; nothing else differs, no other bit
of `STCLR` among it. -/
def Obligations.DeliverThenFinishIsIrqAndLatchClear : Prop :=
  ∀ (s : State) (l : Line) (ids : IrqIds), s.irqIds = some ids → ids.press ≠ ids.release →
    s.deliverable l = true →
    ∃ m t u, exec (deliverOf l) s = .next m ∧ exec (finishOf l) m = .next t
      ∧ exec (.irq (if l = .press then ids.press else ids.release)) s = .next u
      ∧ t.sink = s.sink ++ [.key .power (l = .press), .sync]
      ∧ t.latch l = false ∧ (∀ l', l' ≠ l → t.latch l' = u.latch l')
      ∧ (∀ j, j ≠ s.params.pressLatchBit → t.stclr.getLsbD j = u.stclr.getLsbD j)
      ∧ { t with stclr := u.stclr, releaseLatch := u.releaseLatch } = u

/-- R162 (derived in the spec): every step keeps the balance of `KEY` and `SYNC` events with the
handlers in progress. -/
def Obligations.StepKeepsTheSinkBalanced : Prop :=
  ∀ s t : State, SinkBalanced s → step s = .next t → SinkBalanced t

/-- R53, R37, R153: the sink is written by the handler alone, in order: no other operation but `RESET`
changes it, and what was emitted stays. -/
def Obligations.OnlyTheHandlerWritesTheSink : Prop :=
  ∀ (i : Instr) (s t : State), exec i s = .next t → i ≠ .reset →
    ∃ es, t.sink = s.sink ++ es
      ∧ (es ≠ [] → (∃ id, i = .irq id) ∨ i = .deliverP ∨ i = .deliverR ∨ i = .finishP ∨ i = .finishR)

/-! ### The power-state arbiter -/

/-- R172 (the spec's own decision D33): `WAKEARM`. -/
def Obligations.WakearmOperation : Prop :=
  ∀ (s : State) (b : Bool),
    encode (.wakearm b) = ⟨0x60, if b then 1 else 0⟩
    ∧ (s.active = false ∨ s.wakeCapable = false ∨ s.phase ≠ .run →
        exec (.wakearm b) s = .next { s with resp := ⟨.refused, 0⟩ })
    ∧ (s.active = true → s.wakeCapable = true → s.phase = .run →
        exec (.wakearm b) s = .next { s with wakeArmed := b, resp := ⟨.ok, 0⟩ })

/-- R174: `SUSPEND`. The clause on the subscriptions is the source's. The move and its guard are the spec's
own decision D32 (R171), waiting for the handlers D28 and the inactive case D34 (both log entry 12), and
that `REFUSED` is a next state is log entry 7. -/
def Obligations.SuspendOperation : Prop :=
  ∀ s : State,
    encode .suspend = ⟨0x61, 0⟩
    ∧ (s.attached = false ∨ s.phase ≠ .run ∨ s.inflight.press ≠ .none ∨ s.inflight.release ≠ .none →
        exec .suspend s = .next { s with resp := ⟨.refused, 0⟩ })
    ∧ (s.attached = true → s.phase = .run → s.inflight.press = .none → s.inflight.release = .none →
        exec .suspend s = .next { s with
          sub := if s.active
            then if s.wakeArmed
              then ⟨{ s.sub.press with wakeMarked := true }, { s.sub.release with wakeMarked := true }⟩
              else ⟨{ s.sub.press with enabled := false }, { s.sub.release with enabled := false }⟩
            else s.sub,
          phase := .suspended, resp := ⟨.ok, 0⟩ })

/-- R178 (with R171; the spec's own decision D32): `IRQOFF`. -/
def Obligations.IrqoffOperation : Prop :=
  ∀ s : State,
    encode .irqoff = ⟨0x62, 0⟩
    ∧ (s.attached = false ∨ s.phase ≠ .suspended ∨ s.inflight.press ≠ .none ∨ s.inflight.release ≠ .none →
        exec .irqoff s = .next { s with resp := ⟨.refused, 0⟩ })
    ∧ (s.attached = true → s.phase = .suspended → s.inflight.press = .none → s.inflight.release = .none →
        exec .irqoff s = .next { s with phase := .noirq, resp := ⟨.ok, 0⟩ })

/-- R180, with the guard on handlers in progress that R171 adds (log entry 8): `RESUME_NOIRQ`. On the
variant with the step the press latch is cleared unless the access fails; the other bits of `STCLR`
and the release latch stay; on the other variant only the phase changes. -/
def Obligations.ResumeNoirqOperation : Prop :=
  ∀ (s : State) (tf : Bool),
    encode (.resumeNoirq tf) = ⟨if tf then 0x6B else 0x63, 0⟩
    ∧ (s.attached = false ∨ s.phase ≠ .noirq ∨ s.inflight.press ≠ .none ∨ s.inflight.release ≠ .none →
        exec (.resumeNoirq tf) s = .next { s with resp := ⟨.refused, 0⟩ })
    ∧ ∀ c, s.controller = some c → s.phase = .noirq → s.inflight.press = .none →
        s.inflight.release = .none →
        ∃ w, exec (.resumeNoirq tf) s = .next { s with stclr := w, phase := .noirqResumed, resp := ⟨.ok, 0⟩ }
          ∧ (∀ j, j ≠ s.params.pressLatchBit → w.getLsbD j = s.stclr.getLsbD j)
          ∧ w.getLsbD s.params.pressLatchBit = (s.pressLatch && !(c.latchClear && !tf))

/-- R181, with the guard on handlers in progress that R171 adds (log entry 8; the spec's own decision
D32): `IRQON`. -/
def Obligations.IrqonOperation : Prop :=
  ∀ s : State,
    encode .irqon = ⟨0x64, 0⟩
    ∧ (s.attached = false ∨ s.phase ≠ .noirqResumed ∨ s.inflight.press ≠ .none ∨ s.inflight.release ≠ .none →
        exec .irqon s = .next { s with resp := ⟨.refused, 0⟩ })
    ∧ (s.attached = true → s.phase = .noirqResumed → s.inflight.press = .none → s.inflight.release = .none →
        exec .irqon s = .next { s with phase := .irqResumed, resp := ⟨.ok, 0⟩ })

/-- R182: `RESUME`. The clause on the subscriptions is the source's. The move and its guard are the spec's
own decision D32 (R171), waiting for the handlers D28 and the inactive case D34 (both log entry 12), and
that `REFUSED` is a next state is log entry 7. -/
def Obligations.ResumeOperation : Prop :=
  ∀ s : State,
    encode .resume = ⟨0x65, 0⟩
    ∧ (s.attached = false ∨ s.phase ≠ .irqResumed ∨ s.inflight.press ≠ .none ∨ s.inflight.release ≠ .none →
        exec .resume s = .next { s with resp := ⟨.refused, 0⟩ })
    ∧ (s.attached = true → s.phase = .irqResumed → s.inflight.press = .none → s.inflight.release = .none →
        exec .resume s = .next { s with
          sub := if s.active
            then if s.wakeArmed
              then ⟨{ s.sub.press with wakeMarked := false }, { s.sub.release with wakeMarked := false }⟩
              else ⟨{ s.sub.press with enabled := true }, { s.sub.release with enabled := true }⟩
            else s.sub,
          phase := .run, resp := ⟨.ok, 0⟩ })

/-- R184: `SHUTDOWN`. That it re-runs the suspend procedure is the source's. The move to `PH_OFF` and its
guard are the spec's own decision D32 (R171), waiting for the handlers D28 and the inactive case D34
(both log entry 12), and that `REFUSED` is a next state is log entry 7. -/
def Obligations.ShutdownOperation : Prop :=
  ∀ s : State,
    encode .shutdown = ⟨0x66, 0⟩
    ∧ (s.attached = false ∨ s.phase ≠ .run ∨ s.inflight.press ≠ .none ∨ s.inflight.release ≠ .none →
        exec .shutdown s = .next { s with resp := ⟨.refused, 0⟩ })
    ∧ (s.attached = true → s.phase = .run → s.inflight.press = .none → s.inflight.release = .none →
        exec .shutdown s = .next { s with
          sub := if s.active
            then if s.wakeArmed
              then ⟨{ s.sub.press with wakeMarked := true }, { s.sub.release with wakeMarked := true }⟩
              else ⟨{ s.sub.press with enabled := false }, { s.sub.release with enabled := false }⟩
            else s.sub,
          phase := .off, resp := ⟨.ok, 0⟩ })

/-- R171 (the spec's own decision D32): the phase moves only as the table of R171 says, and by
`RESET`; a move asks for a controller and no handler in progress. -/
def Obligations.PhaseMovesOnlyByTheTable : Prop :=
  ∀ (i : Instr) (s t : State), exec i s = .next t → t.phase ≠ s.phase → i ≠ .reset →
    phaseMove i s.phase t.phase ∧ s.attached = true ∧ s.inflight = ⟨.none, .none⟩

/-- R185 (the spec's own decision D36): in `PH_OFF` everything but `RESET` is refused. The premise is
R39's "`phase != PH_RUN` implies `attached`", kept by `StepKeepsTheInvariant`. -/
def Obligations.PoweredOffRefusesAllButReset : Prop :=
  ∀ (i : Instr) (s : State), Inv s → s.phase = .off → i ≠ .reset →
    exec i s = .next { s with resp := ⟨.refused, 0⟩ }

/-- R183 (derived in the spec): the run `SUSPEND, IRQOFF, RESUME_NOIRQ, IRQON, RESUME`, with any accepted
edges, deliveries and finishes between (R236: nothing is claimed of a run that holds a `REFUSED`, log
entry 7), restores the subscriptions, armed or not, and keeps `wake_armed`,
the device, the identifiers and `KEY` (R187). -/
def Obligations.SuspendThenResumeRestoresSubscriptions : Prop :=
  ∀ (s a a' b b' c c' d d' t : State) (tf : Bool), Inv s → s.active = true →
    Accepts s .suspend a → EdgeRun a a' → Accepts a' .irqoff b → EdgeRun b b' →
    Accepts b' (.resumeNoirq tf) c → EdgeRun c c' → Accepts c' .irqon d → EdgeRun d d' →
    Accepts d' .resume t →
    t.phase = .run ∧ t.sub = ⟨⟨true, true, false⟩, ⟨true, true, false⟩⟩ ∧ t.sub = s.sub
      ∧ t.wakeArmed = s.wakeArmed ∧ t.controller = s.controller ∧ t.irqIds = s.irqIds ∧ t.key = s.key

/-- R188 (derived in the spec): the wake press, step by step. Armed and asleep, a falling edge raises
`wake_req`; with the latch-clear step no press can be delivered after it, up to and past `RESUME`;
without it `IRQON` makes the spurious press deliverable. -/
def Obligations.WakePressIsReplayedOnlyWithoutLatchClear : Prop :=
  ∀ (s : State) (c : Controller) (ld : Bool), Inv s → s.controller = some c → s.wakeArmed = true →
    s.phase = .noirq → s.btn = .high →
    ∃ e a b t, Accepts s (.edgeF ld) e ∧ e.wakeReq = true
      ∧ Accepts e (.resumeNoirq false) a ∧ Accepts a .irqon b ∧ Accepts b .resume t
      ∧ t.phase = .run ∧ t.sink = s.sink
      ∧ (c.latchClear = true → ∀ x ∈ [a, b, t], exec .deliverP x = .next { x with resp := ⟨.refused, 0⟩ })
      ∧ (c.latchClear = false →
          ∃ u, exec .deliverP b = .next u ∧ u.sink = s.sink ++ [.key .power true])

/-- R186, R174: `wake_req` needs an armed wake: with wake not armed no line is wake-marked, so it is
never true. The premise is the invariant `StepKeepsTheInvariant` keeps. -/
def Obligations.WakeRequestNeedsArming : Prop :=
  ∀ s : State, Inv s → s.wakeReq = true →
    s.wakeArmed = true ∧ s.phase = .noirq
      ∧ ∃ l, s.latch l = true ∧ (s.sub.at l).enabled = true ∧ (s.sub.at l).wakeMarked = true

/-- R175: after `SUSPEND` with wake not armed no line can be delivered until `RESUME`, whatever comes
between (`IRQOFF`, `RESUME_NOIRQ`, `IRQON` and with them the phase `PH_IRQ_RESUMED`, in which the host's
interrupts are on again; `RESET`, after which there is no controller, is no part of the run); and so in
every state outside `PH_RUN` that meets the invariant. Runs are of accepted steps (R236), and that the
delivery refused is a next state is log entry 7. -/
def Obligations.UnarmedSuspendSilencesBothLines : Prop :=
  (∀ (s a b : State) (l : Line), s.active = true → s.wakeArmed = false →
      Accepts s .suspend a → RunBeforeResume a b →
      exec (deliverOf l) b = .next { b with resp := ⟨.refused, 0⟩ })
    ∧ ∀ (s : State) (l : Line), Inv s → s.active = true → s.wakeArmed = false → s.phase ≠ .run →
        exec (deliverOf l) s = .next { s with resp := ⟨.refused, 0⟩ }

/-- R31: only `WAKEARM` writes `wake_armed`, but that `ATTACH`, `DETACH` and `RESET` set it to false. -/
def Obligations.OnlyWakearmArms : Prop :=
  ∀ (i : Instr) (s t : State), exec i s = .next t → t.wakeArmed ≠ s.wakeArmed →
    (∃ b, i = .wakearm b) ∨ (t.wakeArmed = false ∧ ((∃ a, i = .attach a) ∨ i = .detach ∨ i = .reset))

/-! ### The gate, attachment, detachment -/

/-- R202: `GATE`'s truth table, which is the source's. That it is refused in `PH_OFF` alone is R200 and R185
(the spec's own decision D36), and as a next state log entry 7; the encoding is R90, R91 (D11). -/
def Obligations.GateOperation : Prop :=
  ∀ (s : State) (gs a1 a2 : Bool),
    encode (.gate gs a1 a2) = ⟨0x70, (if gs then 1 else 0) + (if a1 then 2 else 0) + (if a2 then 4 else 0)⟩
    ∧ (s.phase = .off → exec (.gate gs a1 a2) s = .next { s with resp := ⟨.refused, 0⟩ })
    ∧ (s.phase ≠ .off → exec (.gate gs a1 a2) s = .next { s with
          resp := ⟨.ok, if gs = true ∧ (a1 = true ∨ a2 = true) then 0 else 1⟩ })

/-- R204 to R209, R212, R92: `ATTACH`, branch by branch in the order of its pseudocode. That the guard does
not ask for a phase is log entry 11, the frame of the commit where the gate declines is log entry 10's
reading of "everything else as at reset" (both DEDUCED), the refusal of equal identifiers is the spec's
own decision D27 and of an unknown device type D39, what `RES` carries on an error D42, and a refusal as a
next state is log entry 7. Where the operand's fields stand in `ARG` is `AttachOperandLayout`. -/
def Obligations.AttachOperation : Prop :=
  ∀ (s : State) (a : AttachArg) (c : Controller) (special : Bool) (first second : Line),
    c = ⟨if a.vid then .vpAlt else .vpDefault, a.gateSpecial, a.latchClear⟩ →
    special = (a.gateSpecial && (a.fwAlt1 || a.fwAlt2)) →
    first = s.params.subFirst → second = (if first = .press then .release else .press) →
    (encode (.attach a)).cmd = 0x71
    ∧ (s.attached = true ∨ a.typeHigh ≠ 0 →
        exec (.attach a) s = .next { s with resp := ⟨.refused, 0⟩ })
    ∧ (s.attached = false → a.typeHigh = 0 →
        (special = true → exec (.attach a) s = .next { s with
            controller := some c, irqIds := none, wakeArmed := false, wakeCapable := false,
            sub := ⟨⟨false, false, false⟩, ⟨false, false, false⟩⟩, ep := .none, capPowerKey := false,
            resp := ⟨.ok, 0⟩ })
        ∧ (special = false → exec (.attach a) s = .next (
            if a.pid = a.rid then { s with resp := ⟨.refused, 0⟩ }
            else if resolveOk a first = false then
              { s with resp := ⟨.resourceUnavailable, if first = .press then 0x01 else 0x11⟩ }
            else if resolveOk a second = false then
              { s with resp := ⟨.resourceUnavailable, if second = .press then 0x01 else 0x11⟩ }
            else if a.allocOk = false then { s with resp := ⟨.resourceExhausted, 0⟩ }
            else if a.sub1Ok = false then
              { s with resp := ⟨.resourceUnavailable, if first = .press then 0x02 else 0x12⟩ }
            else if a.sub2Ok = false then
              { s with resp := ⟨.resourceUnavailable, if second = .press then 0x02 else 0x12⟩ }
            else if a.actOk = false then { s with resp := ⟨.resourceUnavailable, 0x03⟩ }
            else { s with
              controller := some c, irqIds := some ⟨a.pid.setWidth 32, a.rid.setWidth 32⟩,
              wakeArmed := false, wakeCapable := true,
              sub := ⟨⟨true, true, false⟩, ⟨true, true, false⟩⟩, ep := .active, capPowerKey := true,
              resp := ⟨.ok, 1⟩ })))

/-- R211: "no partial controller is ever left reachable": an `ATTACH` that does not end `OK` leaves
every field as it was; one that does leaves the invariant's picture of a controller. -/
def Obligations.AttachIsAllOrNothing : Prop :=
  ∀ (s t : State) (a : AttachArg), exec (.attach a) s = .next t →
    (t.resp.status ≠ .ok → t = { s with resp := t.resp })
    ∧ (t.resp.status = .ok → t.attached = true
        ∧ (t.active = true → t.sub = ⟨⟨true, true, false⟩, ⟨true, true, false⟩⟩ ∧ t.ep = .active
            ∧ t.wakeCapable = true ∧ t.wakeArmed = false ∧ t.resp.res = 1)
        ∧ (t.active = false → t.sub = ⟨⟨false, false, false⟩, ⟨false, false, false⟩⟩ ∧ t.ep = .none
            ∧ t.resp.res = 0))

/-- R210: `DETACH`. -/
def Obligations.DetachOperation : Prop :=
  ∀ s : State,
    encode .detach = ⟨0x72, 0⟩
    ∧ (s.attached = false ∨ s.phase ≠ .run ∨ s.inflight.press ≠ .none ∨ s.inflight.release ≠ .none →
        exec .detach s = .next { s with resp := ⟨.refused, 0⟩ })
    ∧ (s.attached = true → s.phase = .run → s.inflight.press = .none → s.inflight.release = .none →
        exec .detach s = .next { s with
          controller := none, irqIds := none, wakeArmed := false, wakeCapable := false,
          sub := ⟨⟨false, false, false⟩, ⟨false, false, false⟩⟩, ep := .none, capPowerKey := false,
          resp := ⟨.ok, 0⟩ })

/-- R29, R203: the profile and the variant of a device are chosen at attachment and "never mutated":
only `DETACH` and `RESET` take them away. -/
def Obligations.DeviceIsHeldForItsLifetime : Prop :=
  ∀ (i : Instr) (s t : State) (c : Controller), exec i s = .next t → s.controller = some c →
    i ≠ .detach → i ≠ .reset → t.controller = some c

/-! ### Reset and the invariants -/

/-- R260, R264: `RESET`, in every state. The four draws are free values of the widths the rule gives;
the parameters, the commands still to come and the count of draws are the model's own fields (log
entries 1, 4, 5). -/
def Obligations.ResetOperation : Prop :=
  ∀ s : State, encode .reset = ⟨0xF0, 0⟩
    ∧ ∃ (key stclr : Word) (latch : Bool) (btn : Level),
        key.toNat < 2 ^ s.params.regw ∧ stclr.toNat < 2 ^ s.params.regw
        ∧ exec .reset s = .next
          { key := key, stclr := stclr, releaseLatch := latch, controller := none, irqIds := none,
            wakeArmed := false, wakeCapable := false,
            sub := ⟨⟨false, false, false⟩, ⟨false, false, false⟩⟩, ep := .none, capPowerKey := false,
            phase := .run, sink := [], btn := btn, inflight := ⟨.none, .none⟩, resp := ⟨.ok, 0⟩,
            params := s.params, draws := s.draws + 1, pending := s.pending }

/-- R41, R39, R162: the reset state, whatever the draws of R260 are, has no controller, meets the
invariant and is balanced; so does the model's own `State.reset`. -/
def Obligations.ResetStatesMeetTheInvariants : Prop :=
  (∀ (p : Params) (key stclr : Word) (latch : Bool) (btn : Level),
      key.toNat < 2 ^ p.regw → stclr.toNat < 2 ^ p.regw →
      Inv (State.resetWith p key stclr latch btn) ∧ SinkBalanced (State.resetWith p key stclr latch btn)
        ∧ (State.resetWith p key stclr latch btn).attached = false
        ∧ (State.resetWith p key stclr latch btn).active = false
        ∧ (State.resetWith p key stclr latch btn).phase = .run
        ∧ (State.resetWith p key stclr latch btn).sink = [])
    ∧ Inv State.reset ∧ SinkBalanced State.reset

/-- R39, R34 (derived in the spec): every step keeps the invariant. -/
def Obligations.StepKeepsTheInvariant : Prop := ∀ s t : State, Inv s → step s = .next t → Inv t

/-- R28, R29, R264: the masks, the tables and every other parameter are "never mutated": no step
changes one, `RESET` among them, and so two lookups always see the same table (R69). That every
parameter is a field of the state which no step writes is log entry 1. -/
def Obligations.NoStepChangesTheParameters : Prop :=
  ∀ s t : State, step s = .next t → t.params = s.params

/-! ### The text surface -/

/-- R97, R98: a text is accepted exactly when it is one or more digits between runs of whitespace and
their value is below `2^32`; the result is that value. -/
def Obligations.ParsingAcceptsExactlyTrimmedDigits : Prop :=
  ∀ (txt : List Byte) (v : Word),
    parseMs txt = some v ↔ ∃ l ds r : List Byte, txt = l ++ ds ++ r
      ∧ (∀ b ∈ l ++ r, b ∈ [0x20#8, 0x09#8, 0x0A#8, 0x0B#8, 0x0C#8, 0x0D#8])
      ∧ ds ≠ [] ∧ (∀ b ∈ ds, 0x30 ≤ b.toNat ∧ b.toNat ≤ 0x39)
      ∧ ds.foldl (fun n d => 10 * n + (d.toNat - 0x30)) 0 = v.toNat

/-- R99: the text of a read is the shortest decimal spelling followed by one newline, and it parses
back to the value. -/
def Obligations.RenderedTextIsShortestAndParsesBack : Prop :=
  ∀ v : Word, (∃ ds : List Byte, renderMs v = ds ++ [0x0A] ∧ ds ≠ []
      ∧ (∀ b ∈ ds, 0x30 ≤ b.toNat ∧ b.toNat ≤ 0x39)
      ∧ ds.foldl (fun n d => 10 * n + (d.toNat - 0x30)) 0 = v.toNat
      ∧ (ds.head? = some 0x30 → ds = [0x30]))
    ∧ parseMs (renderMs v) = some v

/-- R139, R140, R100: the two text endpoints, as expansions over `CALRD.s` and `CALWR.s`. That a
`REFUSED` fails the endpoint is log entry 13. -/
def Obligations.TextEndpointsExpandToCalibration : Prop :=
  ∀ (s t : State) (g : Setting) (tf : Bool),
    (exec (calrdOf tf g) s = .next t →
      readEndpoint g tf s = .next (if t.resp.status = .ok then .text (renderMs t.resp.res)
        else .failed t.resp, t))
    ∧ (∀ txt, parseMs txt = none → writeEndpoint g tf txt s = .next (.failed .invalidInput, s))
    ∧ ∀ txt req, parseMs txt = some req → exec (calwrOf tf req g) s = .next t →
        writeEndpoint g tf txt s = .next (if t.resp.status = .ok then .consumed txt.length
          else .failed t.resp.status, t)

/-! ### The operand of `ATTACH` -/

/-- R103 (the layout is the spec's own, decisions D38, D39), R91: every `ARG` of `CMD` 0x71 is an
`ATTACH` whose fields are the bits R103 names for them; bits 15:14 are in none. -/
def Obligations.AttachOperandLayout : Prop :=
  ∀ arg : Word, ∃ a, decode ⟨0x71, arg⟩ = .ok (.attach a)
    ∧ a.vid = arg.getLsbD 0 ∧ a.typeHigh.toNat = arg.toNat / 2 % 8
    ∧ a.gateSpecial = arg.getLsbD 4 ∧ a.latchClear = arg.getLsbD 5
    ∧ a.fwAlt1 = arg.getLsbD 6 ∧ a.fwAlt2 = arg.getLsbD 7
    ∧ a.resReleaseOk = arg.getLsbD 8 ∧ a.resPressOk = arg.getLsbD 9
    ∧ a.allocOk = arg.getLsbD 10 ∧ a.sub1Ok = arg.getLsbD 11
    ∧ a.sub2Ok = arg.getLsbD 12 ∧ a.actOk = arg.getLsbD 13
    ∧ a.pid.toNat = arg.toNat / 2 ^ 16 % 256 ∧ a.rid.toNat = arg.toNat / 2 ^ 24
end

