-- ==== Sys2Proof/Laws/State.lean ====
section
/-! SUPPORT. What each named update of the state does to each field, one lemma a field, so that no
later proof unfolds a record update. -/

namespace Sys2Proof.Machine

variable (s : State)

/-! ### `reply` -/

@[simp] theorem reply_key (st : Status) (r : Word) : (reply st r s).key = s.key := rfl
@[simp] theorem reply_stclr (st : Status) (r : Word) : (reply st r s).stclr = s.stclr := rfl
@[simp] theorem reply_releaseLatch (st : Status) (r : Word) : (reply st r s).releaseLatch = s.releaseLatch :=
    rfl
@[simp] theorem reply_controller (st : Status) (r : Word) : (reply st r s).controller = s.controller := rfl
@[simp] theorem reply_irqIds (st : Status) (r : Word) : (reply st r s).irqIds = s.irqIds := rfl
@[simp] theorem reply_wakeArmed (st : Status) (r : Word) : (reply st r s).wakeArmed = s.wakeArmed := rfl
@[simp] theorem reply_wakeCapable (st : Status) (r : Word) : (reply st r s).wakeCapable = s.wakeCapable := rfl
@[simp] theorem reply_sub (st : Status) (r : Word) : (reply st r s).sub = s.sub := rfl
@[simp] theorem reply_ep (st : Status) (r : Word) : (reply st r s).ep = s.ep := rfl
@[simp] theorem reply_capPowerKey (st : Status) (r : Word) : (reply st r s).capPowerKey = s.capPowerKey := rfl
@[simp] theorem reply_phase (st : Status) (r : Word) : (reply st r s).phase = s.phase := rfl
@[simp] theorem reply_sink (st : Status) (r : Word) : (reply st r s).sink = s.sink := rfl
@[simp] theorem reply_btn (st : Status) (r : Word) : (reply st r s).btn = s.btn := rfl
@[simp] theorem reply_inflight (st : Status) (r : Word) : (reply st r s).inflight = s.inflight := rfl
@[simp] theorem reply_resp (st : Status) (r : Word) : (reply st r s).resp = ⟨st, r⟩ := rfl
@[simp] theorem reply_params (st : Status) (r : Word) : (reply st r s).params = s.params := rfl
@[simp] theorem reply_draws (st : Status) (r : Word) : (reply st r s).draws = s.draws := rfl
@[simp] theorem reply_pending (st : Status) (r : Word) : (reply st r s).pending = s.pending := rfl
@[simp] theorem reply_attached (st : Status) (r : Word) : (reply st r s).attached = s.attached := rfl
@[simp] theorem reply_active (st : Status) (r : Word) : (reply st r s).active = s.active := rfl
@[simp] theorem reply_pressLatch (st : Status) (r : Word) : (reply st r s).pressLatch = s.pressLatch := rfl
@[simp] theorem reply_quiet (st : Status) (r : Word) : (reply st r s).quiet = s.quiet := rfl

/-! ### `drawn` -/

@[simp] theorem drawn_key : (drawn s).key = s.key := rfl
@[simp] theorem drawn_stclr : (drawn s).stclr = s.stclr := rfl
@[simp] theorem drawn_releaseLatch : (drawn s).releaseLatch = s.releaseLatch := rfl
@[simp] theorem drawn_controller : (drawn s).controller = s.controller := rfl
@[simp] theorem drawn_irqIds : (drawn s).irqIds = s.irqIds := rfl
@[simp] theorem drawn_wakeArmed : (drawn s).wakeArmed = s.wakeArmed := rfl
@[simp] theorem drawn_wakeCapable : (drawn s).wakeCapable = s.wakeCapable := rfl
@[simp] theorem drawn_sub : (drawn s).sub = s.sub := rfl
@[simp] theorem drawn_ep : (drawn s).ep = s.ep := rfl
@[simp] theorem drawn_capPowerKey : (drawn s).capPowerKey = s.capPowerKey := rfl
@[simp] theorem drawn_phase : (drawn s).phase = s.phase := rfl
@[simp] theorem drawn_sink : (drawn s).sink = s.sink := rfl
@[simp] theorem drawn_btn : (drawn s).btn = s.btn := rfl
@[simp] theorem drawn_inflight : (drawn s).inflight = s.inflight := rfl
@[simp] theorem drawn_resp : (drawn s).resp = s.resp := rfl
@[simp] theorem drawn_params : (drawn s).params = s.params := rfl
@[simp] theorem drawn_draws : (drawn s).draws = s.draws + 1 := rfl
@[simp] theorem drawn_pending : (drawn s).pending = s.pending := rfl
@[simp] theorem drawn_attached : (drawn s).attached = s.attached := rfl
@[simp] theorem drawn_active : (drawn s).active = s.active := rfl
@[simp] theorem drawn_pressLatch : (drawn s).pressLatch = s.pressLatch := rfl
@[simp] theorem drawn_quiet : (drawn s).quiet = s.quiet := rfl

/-! ### `emit` -/

@[simp] theorem emit_key (e : Event) : (emit e s).key = s.key := rfl
@[simp] theorem emit_stclr (e : Event) : (emit e s).stclr = s.stclr := rfl
@[simp] theorem emit_releaseLatch (e : Event) : (emit e s).releaseLatch = s.releaseLatch := rfl
@[simp] theorem emit_controller (e : Event) : (emit e s).controller = s.controller := rfl
@[simp] theorem emit_irqIds (e : Event) : (emit e s).irqIds = s.irqIds := rfl
@[simp] theorem emit_wakeArmed (e : Event) : (emit e s).wakeArmed = s.wakeArmed := rfl
@[simp] theorem emit_wakeCapable (e : Event) : (emit e s).wakeCapable = s.wakeCapable := rfl
@[simp] theorem emit_sub (e : Event) : (emit e s).sub = s.sub := rfl
@[simp] theorem emit_ep (e : Event) : (emit e s).ep = s.ep := rfl
@[simp] theorem emit_capPowerKey (e : Event) : (emit e s).capPowerKey = s.capPowerKey := rfl
@[simp] theorem emit_phase (e : Event) : (emit e s).phase = s.phase := rfl
@[simp] theorem emit_sink (e : Event) : (emit e s).sink = s.sink ++ [e] := rfl
@[simp] theorem emit_btn (e : Event) : (emit e s).btn = s.btn := rfl
@[simp] theorem emit_inflight (e : Event) : (emit e s).inflight = s.inflight := rfl
@[simp] theorem emit_resp (e : Event) : (emit e s).resp = s.resp := rfl
@[simp] theorem emit_params (e : Event) : (emit e s).params = s.params := rfl
@[simp] theorem emit_draws (e : Event) : (emit e s).draws = s.draws := rfl
@[simp] theorem emit_pending (e : Event) : (emit e s).pending = s.pending := rfl
@[simp] theorem emit_attached (e : Event) : (emit e s).attached = s.attached := rfl
@[simp] theorem emit_active (e : Event) : (emit e s).active = s.active := rfl
@[simp] theorem emit_pressLatch (e : Event) : (emit e s).pressLatch = s.pressLatch := rfl
@[simp] theorem emit_quiet (e : Event) : (emit e s).quiet = s.quiet := rfl

/-! ### `setPressLatch` -/

@[simp] theorem setPressLatch_key (b : Bool) : (setPressLatch b s).key = s.key := rfl
@[simp] theorem setPressLatch_stclr (b : Bool) : (setPressLatch b s).stclr = withBit s.stclr s.params.pressLatchBit b :=
    rfl
@[simp] theorem setPressLatch_releaseLatch (b : Bool) : (setPressLatch b s).releaseLatch = s.releaseLatch :=
    rfl
@[simp] theorem setPressLatch_controller (b : Bool) : (setPressLatch b s).controller = s.controller := rfl
@[simp] theorem setPressLatch_irqIds (b : Bool) : (setPressLatch b s).irqIds = s.irqIds := rfl
@[simp] theorem setPressLatch_wakeArmed (b : Bool) : (setPressLatch b s).wakeArmed = s.wakeArmed := rfl
@[simp] theorem setPressLatch_wakeCapable (b : Bool) : (setPressLatch b s).wakeCapable = s.wakeCapable := rfl
@[simp] theorem setPressLatch_sub (b : Bool) : (setPressLatch b s).sub = s.sub := rfl
@[simp] theorem setPressLatch_ep (b : Bool) : (setPressLatch b s).ep = s.ep := rfl
@[simp] theorem setPressLatch_capPowerKey (b : Bool) : (setPressLatch b s).capPowerKey = s.capPowerKey := rfl
@[simp] theorem setPressLatch_phase (b : Bool) : (setPressLatch b s).phase = s.phase := rfl
@[simp] theorem setPressLatch_sink (b : Bool) : (setPressLatch b s).sink = s.sink := rfl
@[simp] theorem setPressLatch_btn (b : Bool) : (setPressLatch b s).btn = s.btn := rfl
@[simp] theorem setPressLatch_inflight (b : Bool) : (setPressLatch b s).inflight = s.inflight := rfl
@[simp] theorem setPressLatch_resp (b : Bool) : (setPressLatch b s).resp = s.resp := rfl
@[simp] theorem setPressLatch_params (b : Bool) : (setPressLatch b s).params = s.params := rfl
@[simp] theorem setPressLatch_draws (b : Bool) : (setPressLatch b s).draws = s.draws := rfl
@[simp] theorem setPressLatch_pending (b : Bool) : (setPressLatch b s).pending = s.pending := rfl
@[simp] theorem setPressLatch_attached (b : Bool) : (setPressLatch b s).attached = s.attached := rfl
@[simp] theorem setPressLatch_active (b : Bool) : (setPressLatch b s).active = s.active := rfl
@[simp] theorem setPressLatch_quiet (b : Bool) : (setPressLatch b s).quiet = s.quiet := rfl

/-! ### `setInflight` -/

@[simp] theorem setInflight_key (l : Line) (f : Inflight) : (setInflight l f s).key = s.key := rfl
@[simp] theorem setInflight_stclr (l : Line) (f : Inflight) : (setInflight l f s).stclr = s.stclr := rfl
@[simp] theorem setInflight_releaseLatch (l : Line) (f : Inflight) : (setInflight l f s).releaseLatch = s.releaseLatch :=
    rfl
@[simp] theorem setInflight_controller (l : Line) (f : Inflight) : (setInflight l f s).controller = s.controller :=
    rfl
@[simp] theorem setInflight_irqIds (l : Line) (f : Inflight) : (setInflight l f s).irqIds = s.irqIds := rfl
@[simp] theorem setInflight_wakeArmed (l : Line) (f : Inflight) : (setInflight l f s).wakeArmed = s.wakeArmed :=
    rfl
@[simp] theorem setInflight_wakeCapable (l : Line) (f : Inflight) : (setInflight l f s).wakeCapable = s.wakeCapable :=
    rfl
@[simp] theorem setInflight_sub (l : Line) (f : Inflight) : (setInflight l f s).sub = s.sub := rfl
@[simp] theorem setInflight_ep (l : Line) (f : Inflight) : (setInflight l f s).ep = s.ep := rfl
@[simp] theorem setInflight_capPowerKey (l : Line) (f : Inflight) : (setInflight l f s).capPowerKey = s.capPowerKey :=
    rfl
@[simp] theorem setInflight_phase (l : Line) (f : Inflight) : (setInflight l f s).phase = s.phase := rfl
@[simp] theorem setInflight_sink (l : Line) (f : Inflight) : (setInflight l f s).sink = s.sink := rfl
@[simp] theorem setInflight_btn (l : Line) (f : Inflight) : (setInflight l f s).btn = s.btn := rfl
@[simp] theorem setInflight_inflight (l : Line) (f : Inflight) : (setInflight l f s).inflight = s.inflight.set l f :=
    rfl
@[simp] theorem setInflight_resp (l : Line) (f : Inflight) : (setInflight l f s).resp = s.resp := rfl
@[simp] theorem setInflight_params (l : Line) (f : Inflight) : (setInflight l f s).params = s.params := rfl
@[simp] theorem setInflight_draws (l : Line) (f : Inflight) : (setInflight l f s).draws = s.draws := rfl
@[simp] theorem setInflight_pending (l : Line) (f : Inflight) : (setInflight l f s).pending = s.pending := rfl
@[simp] theorem setInflight_attached (l : Line) (f : Inflight) : (setInflight l f s).attached = s.attached :=
    rfl
@[simp] theorem setInflight_active (l : Line) (f : Inflight) : (setInflight l f s).active = s.active := rfl
@[simp] theorem setInflight_pressLatch (l : Line) (f : Inflight) : (setInflight l f s).pressLatch = s.pressLatch :=
    rfl

/-! ### `setEnabled` -/

@[simp] theorem setEnabled_key (b : Bool) : (setEnabled b s).key = s.key := rfl
@[simp] theorem setEnabled_stclr (b : Bool) : (setEnabled b s).stclr = s.stclr := rfl
@[simp] theorem setEnabled_releaseLatch (b : Bool) : (setEnabled b s).releaseLatch = s.releaseLatch := rfl
@[simp] theorem setEnabled_controller (b : Bool) : (setEnabled b s).controller = s.controller := rfl
@[simp] theorem setEnabled_irqIds (b : Bool) : (setEnabled b s).irqIds = s.irqIds := rfl
@[simp] theorem setEnabled_wakeArmed (b : Bool) : (setEnabled b s).wakeArmed = s.wakeArmed := rfl
@[simp] theorem setEnabled_wakeCapable (b : Bool) : (setEnabled b s).wakeCapable = s.wakeCapable := rfl
@[simp] theorem setEnabled_sub (b : Bool) : (setEnabled b s).sub = ⟨{ s.sub.press with enabled := b }, { s.sub.release with enabled := b }⟩ :=
    rfl
@[simp] theorem setEnabled_ep (b : Bool) : (setEnabled b s).ep = s.ep := rfl
@[simp] theorem setEnabled_capPowerKey (b : Bool) : (setEnabled b s).capPowerKey = s.capPowerKey := rfl
@[simp] theorem setEnabled_phase (b : Bool) : (setEnabled b s).phase = s.phase := rfl
@[simp] theorem setEnabled_sink (b : Bool) : (setEnabled b s).sink = s.sink := rfl
@[simp] theorem setEnabled_btn (b : Bool) : (setEnabled b s).btn = s.btn := rfl
@[simp] theorem setEnabled_inflight (b : Bool) : (setEnabled b s).inflight = s.inflight := rfl
@[simp] theorem setEnabled_resp (b : Bool) : (setEnabled b s).resp = s.resp := rfl
@[simp] theorem setEnabled_params (b : Bool) : (setEnabled b s).params = s.params := rfl
@[simp] theorem setEnabled_draws (b : Bool) : (setEnabled b s).draws = s.draws := rfl
@[simp] theorem setEnabled_pending (b : Bool) : (setEnabled b s).pending = s.pending := rfl
@[simp] theorem setEnabled_attached (b : Bool) : (setEnabled b s).attached = s.attached := rfl
@[simp] theorem setEnabled_active (b : Bool) : (setEnabled b s).active = s.active := rfl
@[simp] theorem setEnabled_pressLatch (b : Bool) : (setEnabled b s).pressLatch = s.pressLatch := rfl
@[simp] theorem setEnabled_quiet (b : Bool) : (setEnabled b s).quiet = s.quiet := rfl

/-! ### `setWakeMarked` -/

@[simp] theorem setWakeMarked_key (b : Bool) : (setWakeMarked b s).key = s.key := rfl
@[simp] theorem setWakeMarked_stclr (b : Bool) : (setWakeMarked b s).stclr = s.stclr := rfl
@[simp] theorem setWakeMarked_releaseLatch (b : Bool) : (setWakeMarked b s).releaseLatch = s.releaseLatch :=
    rfl
@[simp] theorem setWakeMarked_controller (b : Bool) : (setWakeMarked b s).controller = s.controller := rfl
@[simp] theorem setWakeMarked_irqIds (b : Bool) : (setWakeMarked b s).irqIds = s.irqIds := rfl
@[simp] theorem setWakeMarked_wakeArmed (b : Bool) : (setWakeMarked b s).wakeArmed = s.wakeArmed := rfl
@[simp] theorem setWakeMarked_wakeCapable (b : Bool) : (setWakeMarked b s).wakeCapable = s.wakeCapable := rfl
@[simp] theorem setWakeMarked_sub (b : Bool) : (setWakeMarked b s).sub = ⟨{ s.sub.press with wakeMarked := b }, { s.sub.release with wakeMarked := b }⟩ :=
    rfl
@[simp] theorem setWakeMarked_ep (b : Bool) : (setWakeMarked b s).ep = s.ep := rfl
@[simp] theorem setWakeMarked_capPowerKey (b : Bool) : (setWakeMarked b s).capPowerKey = s.capPowerKey := rfl
@[simp] theorem setWakeMarked_phase (b : Bool) : (setWakeMarked b s).phase = s.phase := rfl
@[simp] theorem setWakeMarked_sink (b : Bool) : (setWakeMarked b s).sink = s.sink := rfl
@[simp] theorem setWakeMarked_btn (b : Bool) : (setWakeMarked b s).btn = s.btn := rfl
@[simp] theorem setWakeMarked_inflight (b : Bool) : (setWakeMarked b s).inflight = s.inflight := rfl
@[simp] theorem setWakeMarked_resp (b : Bool) : (setWakeMarked b s).resp = s.resp := rfl
@[simp] theorem setWakeMarked_params (b : Bool) : (setWakeMarked b s).params = s.params := rfl
@[simp] theorem setWakeMarked_draws (b : Bool) : (setWakeMarked b s).draws = s.draws := rfl
@[simp] theorem setWakeMarked_pending (b : Bool) : (setWakeMarked b s).pending = s.pending := rfl
@[simp] theorem setWakeMarked_attached (b : Bool) : (setWakeMarked b s).attached = s.attached := rfl
@[simp] theorem setWakeMarked_active (b : Bool) : (setWakeMarked b s).active = s.active := rfl
@[simp] theorem setWakeMarked_pressLatch (b : Bool) : (setWakeMarked b s).pressLatch = s.pressLatch := rfl
@[simp] theorem setWakeMarked_quiet (b : Bool) : (setWakeMarked b s).quiet = s.quiet := rfl

/-! ### `setPhase` -/

@[simp] theorem setPhase_key (ph : Phase) : (setPhase ph s).key = s.key := rfl
@[simp] theorem setPhase_stclr (ph : Phase) : (setPhase ph s).stclr = s.stclr := rfl
@[simp] theorem setPhase_releaseLatch (ph : Phase) : (setPhase ph s).releaseLatch = s.releaseLatch := rfl
@[simp] theorem setPhase_controller (ph : Phase) : (setPhase ph s).controller = s.controller := rfl
@[simp] theorem setPhase_irqIds (ph : Phase) : (setPhase ph s).irqIds = s.irqIds := rfl
@[simp] theorem setPhase_wakeArmed (ph : Phase) : (setPhase ph s).wakeArmed = s.wakeArmed := rfl
@[simp] theorem setPhase_wakeCapable (ph : Phase) : (setPhase ph s).wakeCapable = s.wakeCapable := rfl
@[simp] theorem setPhase_sub (ph : Phase) : (setPhase ph s).sub = s.sub := rfl
@[simp] theorem setPhase_ep (ph : Phase) : (setPhase ph s).ep = s.ep := rfl
@[simp] theorem setPhase_capPowerKey (ph : Phase) : (setPhase ph s).capPowerKey = s.capPowerKey := rfl
@[simp] theorem setPhase_phase (ph : Phase) : (setPhase ph s).phase = ph := rfl
@[simp] theorem setPhase_sink (ph : Phase) : (setPhase ph s).sink = s.sink := rfl
@[simp] theorem setPhase_btn (ph : Phase) : (setPhase ph s).btn = s.btn := rfl
@[simp] theorem setPhase_inflight (ph : Phase) : (setPhase ph s).inflight = s.inflight := rfl
@[simp] theorem setPhase_resp (ph : Phase) : (setPhase ph s).resp = s.resp := rfl
@[simp] theorem setPhase_params (ph : Phase) : (setPhase ph s).params = s.params := rfl
@[simp] theorem setPhase_draws (ph : Phase) : (setPhase ph s).draws = s.draws := rfl
@[simp] theorem setPhase_pending (ph : Phase) : (setPhase ph s).pending = s.pending := rfl
@[simp] theorem setPhase_attached (ph : Phase) : (setPhase ph s).attached = s.attached := rfl
@[simp] theorem setPhase_active (ph : Phase) : (setPhase ph s).active = s.active := rfl
@[simp] theorem setPhase_pressLatch (ph : Phase) : (setPhase ph s).pressLatch = s.pressLatch := rfl
@[simp] theorem setPhase_quiet (ph : Phase) : (setPhase ph s).quiet = s.quiet := rfl

/-! ### `returnHandler` -/

@[simp] theorem returnHandler_key (l : Line) : (returnHandler l s).key = s.key := rfl
@[simp] theorem returnHandler_stclr (l : Line) : (returnHandler l s).stclr = s.stclr := rfl
@[simp] theorem returnHandler_releaseLatch (l : Line) : (returnHandler l s).releaseLatch = s.releaseLatch :=
    rfl
@[simp] theorem returnHandler_controller (l : Line) : (returnHandler l s).controller = s.controller := rfl
@[simp] theorem returnHandler_irqIds (l : Line) : (returnHandler l s).irqIds = s.irqIds := rfl
@[simp] theorem returnHandler_wakeArmed (l : Line) : (returnHandler l s).wakeArmed = s.wakeArmed := rfl
@[simp] theorem returnHandler_wakeCapable (l : Line) : (returnHandler l s).wakeCapable = s.wakeCapable := rfl
@[simp] theorem returnHandler_sub (l : Line) : (returnHandler l s).sub = s.sub := rfl
@[simp] theorem returnHandler_ep (l : Line) : (returnHandler l s).ep = s.ep := rfl
@[simp] theorem returnHandler_capPowerKey (l : Line) : (returnHandler l s).capPowerKey = s.capPowerKey := rfl
@[simp] theorem returnHandler_phase (l : Line) : (returnHandler l s).phase = s.phase := rfl
@[simp] theorem returnHandler_sink (l : Line) : (returnHandler l s).sink = s.sink ++ [.sync] := rfl
@[simp] theorem returnHandler_btn (l : Line) : (returnHandler l s).btn = s.btn := rfl
@[simp] theorem returnHandler_inflight (l : Line) : (returnHandler l s).inflight = s.inflight.set l .none :=
    rfl
@[simp] theorem returnHandler_resp (l : Line) : (returnHandler l s).resp = s.resp := rfl
@[simp] theorem returnHandler_params (l : Line) : (returnHandler l s).params = s.params := rfl
@[simp] theorem returnHandler_draws (l : Line) : (returnHandler l s).draws = s.draws := rfl
@[simp] theorem returnHandler_pending (l : Line) : (returnHandler l s).pending = s.pending := rfl
@[simp] theorem returnHandler_attached (l : Line) : (returnHandler l s).attached = s.attached := rfl
@[simp] theorem returnHandler_active (l : Line) : (returnHandler l s).active = s.active := rfl
@[simp] theorem returnHandler_pressLatch (l : Line) : (returnHandler l s).pressLatch = s.pressLatch := rfl

/-! ### `runHandler` -/

@[simp] theorem runHandler_key (l : Line) : (runHandler l s).key = s.key := rfl
@[simp] theorem runHandler_stclr (l : Line) : (runHandler l s).stclr = s.stclr := rfl
@[simp] theorem runHandler_releaseLatch (l : Line) : (runHandler l s).releaseLatch = s.releaseLatch := rfl
@[simp] theorem runHandler_controller (l : Line) : (runHandler l s).controller = s.controller := rfl
@[simp] theorem runHandler_irqIds (l : Line) : (runHandler l s).irqIds = s.irqIds := rfl
@[simp] theorem runHandler_wakeArmed (l : Line) : (runHandler l s).wakeArmed = s.wakeArmed := rfl
@[simp] theorem runHandler_wakeCapable (l : Line) : (runHandler l s).wakeCapable = s.wakeCapable := rfl
@[simp] theorem runHandler_sub (l : Line) : (runHandler l s).sub = s.sub := rfl
@[simp] theorem runHandler_ep (l : Line) : (runHandler l s).ep = s.ep := rfl
@[simp] theorem runHandler_capPowerKey (l : Line) : (runHandler l s).capPowerKey = s.capPowerKey := rfl
@[simp] theorem runHandler_phase (l : Line) : (runHandler l s).phase = s.phase := rfl
@[simp] theorem runHandler_sink (l : Line) : (runHandler l s).sink = s.sink ++ [keyEventOf l] ++ [.sync] :=
    rfl
@[simp] theorem runHandler_btn (l : Line) : (runHandler l s).btn = s.btn := rfl
@[simp] theorem runHandler_inflight (l : Line) : (runHandler l s).inflight = s.inflight := rfl
@[simp] theorem runHandler_resp (l : Line) : (runHandler l s).resp = s.resp := rfl
@[simp] theorem runHandler_params (l : Line) : (runHandler l s).params = s.params := rfl
@[simp] theorem runHandler_draws (l : Line) : (runHandler l s).draws = s.draws := rfl
@[simp] theorem runHandler_pending (l : Line) : (runHandler l s).pending = s.pending := rfl
@[simp] theorem runHandler_attached (l : Line) : (runHandler l s).attached = s.attached := rfl
@[simp] theorem runHandler_active (l : Line) : (runHandler l s).active = s.active := rfl
@[simp] theorem runHandler_pressLatch (l : Line) : (runHandler l s).pressLatch = s.pressLatch := rfl
@[simp] theorem runHandler_quiet (l : Line) : (runHandler l s).quiet = s.quiet := rfl

/-! ### `clearController` -/

@[simp] theorem clearController_key : (clearController s).key = s.key := rfl
@[simp] theorem clearController_stclr : (clearController s).stclr = s.stclr := rfl
@[simp] theorem clearController_releaseLatch : (clearController s).releaseLatch = s.releaseLatch := rfl
@[simp] theorem clearController_controller : (clearController s).controller = none := rfl
@[simp] theorem clearController_irqIds : (clearController s).irqIds = none := rfl
@[simp] theorem clearController_wakeArmed : (clearController s).wakeArmed = false := rfl
@[simp] theorem clearController_wakeCapable : (clearController s).wakeCapable = false := rfl
@[simp] theorem clearController_sub : (clearController s).sub = ⟨.absent, .absent⟩ := rfl
@[simp] theorem clearController_ep : (clearController s).ep = .none := rfl
@[simp] theorem clearController_capPowerKey : (clearController s).capPowerKey = false := rfl
@[simp] theorem clearController_phase : (clearController s).phase = s.phase := rfl
@[simp] theorem clearController_sink : (clearController s).sink = s.sink := rfl
@[simp] theorem clearController_btn : (clearController s).btn = s.btn := rfl
@[simp] theorem clearController_inflight : (clearController s).inflight = s.inflight := rfl
@[simp] theorem clearController_resp : (clearController s).resp = s.resp := rfl
@[simp] theorem clearController_params : (clearController s).params = s.params := rfl
@[simp] theorem clearController_draws : (clearController s).draws = s.draws := rfl
@[simp] theorem clearController_pending : (clearController s).pending = s.pending := rfl
@[simp] theorem clearController_pressLatch : (clearController s).pressLatch = s.pressLatch := rfl
@[simp] theorem clearController_quiet : (clearController s).quiet = s.quiet := rfl

/-! ### `commitInactive` -/

@[simp] theorem commitInactive_key (c : Controller) : (commitInactive c s).key = s.key := rfl
@[simp] theorem commitInactive_stclr (c : Controller) : (commitInactive c s).stclr = s.stclr := rfl
@[simp] theorem commitInactive_releaseLatch (c : Controller) : (commitInactive c s).releaseLatch = s.releaseLatch :=
    rfl
@[simp] theorem commitInactive_controller (c : Controller) : (commitInactive c s).controller = some c := rfl
@[simp] theorem commitInactive_irqIds (c : Controller) : (commitInactive c s).irqIds = none := rfl
@[simp] theorem commitInactive_wakeArmed (c : Controller) : (commitInactive c s).wakeArmed = false := rfl
@[simp] theorem commitInactive_wakeCapable (c : Controller) : (commitInactive c s).wakeCapable = false := rfl
@[simp] theorem commitInactive_sub (c : Controller) : (commitInactive c s).sub = ⟨.absent, .absent⟩ := rfl
@[simp] theorem commitInactive_ep (c : Controller) : (commitInactive c s).ep = .none := rfl
@[simp] theorem commitInactive_capPowerKey (c : Controller) : (commitInactive c s).capPowerKey = false := rfl
@[simp] theorem commitInactive_phase (c : Controller) : (commitInactive c s).phase = s.phase := rfl
@[simp] theorem commitInactive_sink (c : Controller) : (commitInactive c s).sink = s.sink := rfl
@[simp] theorem commitInactive_btn (c : Controller) : (commitInactive c s).btn = s.btn := rfl
@[simp] theorem commitInactive_inflight (c : Controller) : (commitInactive c s).inflight = s.inflight := rfl
@[simp] theorem commitInactive_resp (c : Controller) : (commitInactive c s).resp = s.resp := rfl
@[simp] theorem commitInactive_params (c : Controller) : (commitInactive c s).params = s.params := rfl
@[simp] theorem commitInactive_draws (c : Controller) : (commitInactive c s).draws = s.draws := rfl
@[simp] theorem commitInactive_pending (c : Controller) : (commitInactive c s).pending = s.pending := rfl
@[simp] theorem commitInactive_pressLatch (c : Controller) : (commitInactive c s).pressLatch = s.pressLatch :=
    rfl
@[simp] theorem commitInactive_quiet (c : Controller) : (commitInactive c s).quiet = s.quiet := rfl

/-! ### `commitActive` -/

@[simp] theorem commitActive_key (c : Controller) (ids : IrqIds) : (commitActive c ids s).key = s.key := rfl
@[simp] theorem commitActive_stclr (c : Controller) (ids : IrqIds) : (commitActive c ids s).stclr = s.stclr :=
    rfl
@[simp] theorem commitActive_releaseLatch (c : Controller) (ids : IrqIds) : (commitActive c ids s).releaseLatch = s.releaseLatch :=
    rfl
@[simp] theorem commitActive_controller (c : Controller) (ids : IrqIds) : (commitActive c ids s).controller = some c :=
    rfl
@[simp] theorem commitActive_irqIds (c : Controller) (ids : IrqIds) : (commitActive c ids s).irqIds = some ids :=
    rfl
@[simp] theorem commitActive_wakeArmed (c : Controller) (ids : IrqIds) : (commitActive c ids s).wakeArmed = false :=
    rfl
@[simp] theorem commitActive_wakeCapable (c : Controller) (ids : IrqIds) : (commitActive c ids s).wakeCapable = true :=
    rfl
@[simp] theorem commitActive_sub (c : Controller) (ids : IrqIds) : (commitActive c ids s).sub = ⟨.fresh, .fresh⟩ :=
    rfl
@[simp] theorem commitActive_ep (c : Controller) (ids : IrqIds) : (commitActive c ids s).ep = .active := rfl
@[simp] theorem commitActive_capPowerKey (c : Controller) (ids : IrqIds) : (commitActive c ids s).capPowerKey = true :=
    rfl
@[simp] theorem commitActive_phase (c : Controller) (ids : IrqIds) : (commitActive c ids s).phase = s.phase :=
    rfl
@[simp] theorem commitActive_sink (c : Controller) (ids : IrqIds) : (commitActive c ids s).sink = s.sink :=
    rfl
@[simp] theorem commitActive_btn (c : Controller) (ids : IrqIds) : (commitActive c ids s).btn = s.btn := rfl
@[simp] theorem commitActive_inflight (c : Controller) (ids : IrqIds) : (commitActive c ids s).inflight = s.inflight :=
    rfl
@[simp] theorem commitActive_resp (c : Controller) (ids : IrqIds) : (commitActive c ids s).resp = s.resp :=
    rfl
@[simp] theorem commitActive_params (c : Controller) (ids : IrqIds) : (commitActive c ids s).params = s.params :=
    rfl
@[simp] theorem commitActive_draws (c : Controller) (ids : IrqIds) : (commitActive c ids s).draws = s.draws :=
    rfl
@[simp] theorem commitActive_pending (c : Controller) (ids : IrqIds) : (commitActive c ids s).pending = s.pending :=
    rfl
@[simp] theorem commitActive_pressLatch (c : Controller) (ids : IrqIds) : (commitActive c ids s).pressLatch = s.pressLatch :=
    rfl
@[simp] theorem commitActive_quiet (c : Controller) (ids : IrqIds) : (commitActive c ids s).quiet = s.quiet :=
    rfl

/-! ### `resetAll` -/

@[simp] theorem resetAll_key : (resetAll s).key = toReg s.params (Config.drawKey s.draws) := rfl
@[simp] theorem resetAll_stclr : (resetAll s).stclr = toReg s.params (Config.drawStclr s.draws) := rfl
@[simp] theorem resetAll_releaseLatch : (resetAll s).releaseLatch = Config.drawReleaseLatch s.draws := rfl
@[simp] theorem resetAll_controller : (resetAll s).controller = none := rfl
@[simp] theorem resetAll_irqIds : (resetAll s).irqIds = none := rfl
@[simp] theorem resetAll_wakeArmed : (resetAll s).wakeArmed = false := rfl
@[simp] theorem resetAll_wakeCapable : (resetAll s).wakeCapable = false := rfl
@[simp] theorem resetAll_sub : (resetAll s).sub = ⟨.absent, .absent⟩ := rfl
@[simp] theorem resetAll_ep : (resetAll s).ep = .none := rfl
@[simp] theorem resetAll_capPowerKey : (resetAll s).capPowerKey = false := rfl
@[simp] theorem resetAll_phase : (resetAll s).phase = .run := rfl
@[simp] theorem resetAll_sink : (resetAll s).sink = [] := rfl
@[simp] theorem resetAll_btn : (resetAll s).btn = Config.drawBtn s.draws := rfl
@[simp] theorem resetAll_inflight : (resetAll s).inflight = ⟨.none, .none⟩ := rfl
@[simp] theorem resetAll_resp : (resetAll s).resp = ⟨.ok, 0⟩ := rfl
@[simp] theorem resetAll_params : (resetAll s).params = s.params := rfl
@[simp] theorem resetAll_draws : (resetAll s).draws = s.draws := rfl
@[simp] theorem resetAll_pending : (resetAll s).pending = s.pending := rfl

/-! ### `putCommand` -/

@[simp] theorem putCommand_key (c : Command) : (putCommand c s).key = s.key := rfl
@[simp] theorem putCommand_stclr (c : Command) : (putCommand c s).stclr = s.stclr := rfl
@[simp] theorem putCommand_releaseLatch (c : Command) : (putCommand c s).releaseLatch = s.releaseLatch := rfl
@[simp] theorem putCommand_controller (c : Command) : (putCommand c s).controller = s.controller := rfl
@[simp] theorem putCommand_irqIds (c : Command) : (putCommand c s).irqIds = s.irqIds := rfl
@[simp] theorem putCommand_wakeArmed (c : Command) : (putCommand c s).wakeArmed = s.wakeArmed := rfl
@[simp] theorem putCommand_wakeCapable (c : Command) : (putCommand c s).wakeCapable = s.wakeCapable := rfl
@[simp] theorem putCommand_sub (c : Command) : (putCommand c s).sub = s.sub := rfl
@[simp] theorem putCommand_ep (c : Command) : (putCommand c s).ep = s.ep := rfl
@[simp] theorem putCommand_capPowerKey (c : Command) : (putCommand c s).capPowerKey = s.capPowerKey := rfl
@[simp] theorem putCommand_phase (c : Command) : (putCommand c s).phase = s.phase := rfl
@[simp] theorem putCommand_sink (c : Command) : (putCommand c s).sink = s.sink := rfl
@[simp] theorem putCommand_btn (c : Command) : (putCommand c s).btn = s.btn := rfl
@[simp] theorem putCommand_inflight (c : Command) : (putCommand c s).inflight = s.inflight := rfl
@[simp] theorem putCommand_resp (c : Command) : (putCommand c s).resp = s.resp := rfl
@[simp] theorem putCommand_params (c : Command) : (putCommand c s).params = s.params := rfl
@[simp] theorem putCommand_draws (c : Command) : (putCommand c s).draws = s.draws := rfl
@[simp] theorem putCommand_pending (c : Command) : (putCommand c s).pending = c :: s.pending := rfl
@[simp] theorem putCommand_attached (c : Command) : (putCommand c s).attached = s.attached := rfl
@[simp] theorem putCommand_active (c : Command) : (putCommand c s).active = s.active := rfl
@[simp] theorem putCommand_pressLatch (c : Command) : (putCommand c s).pressLatch = s.pressLatch := rfl
@[simp] theorem putCommand_quiet (c : Command) : (putCommand c s).quiet = s.quiet := rfl

/-! ### `setLatch` -/

@[simp] theorem setLatch_key (l : Line) (b : Bool) : (setLatch l b s).key = s.key := by cases l <;> rfl
@[simp] theorem setLatch_controller (l : Line) (b : Bool) : (setLatch l b s).controller = s.controller :=
    by cases l <;> rfl
@[simp] theorem setLatch_irqIds (l : Line) (b : Bool) : (setLatch l b s).irqIds = s.irqIds :=
    by cases l <;> rfl
@[simp] theorem setLatch_wakeArmed (l : Line) (b : Bool) : (setLatch l b s).wakeArmed = s.wakeArmed :=
    by cases l <;> rfl
@[simp] theorem setLatch_wakeCapable (l : Line) (b : Bool) : (setLatch l b s).wakeCapable = s.wakeCapable :=
    by cases l <;> rfl
@[simp] theorem setLatch_sub (l : Line) (b : Bool) : (setLatch l b s).sub = s.sub := by cases l <;> rfl
@[simp] theorem setLatch_ep (l : Line) (b : Bool) : (setLatch l b s).ep = s.ep := by cases l <;> rfl
@[simp] theorem setLatch_capPowerKey (l : Line) (b : Bool) : (setLatch l b s).capPowerKey = s.capPowerKey :=
    by cases l <;> rfl
@[simp] theorem setLatch_phase (l : Line) (b : Bool) : (setLatch l b s).phase = s.phase := by cases l <;> rfl
@[simp] theorem setLatch_sink (l : Line) (b : Bool) : (setLatch l b s).sink = s.sink := by cases l <;> rfl
@[simp] theorem setLatch_btn (l : Line) (b : Bool) : (setLatch l b s).btn = s.btn := by cases l <;> rfl
@[simp] theorem setLatch_inflight (l : Line) (b : Bool) : (setLatch l b s).inflight = s.inflight :=
    by cases l <;> rfl
@[simp] theorem setLatch_resp (l : Line) (b : Bool) : (setLatch l b s).resp = s.resp := by cases l <;> rfl
@[simp] theorem setLatch_params (l : Line) (b : Bool) : (setLatch l b s).params = s.params :=
    by cases l <;> rfl
@[simp] theorem setLatch_draws (l : Line) (b : Bool) : (setLatch l b s).draws = s.draws := by cases l <;> rfl
@[simp] theorem setLatch_pending (l : Line) (b : Bool) : (setLatch l b s).pending = s.pending :=
    by cases l <;> rfl
@[simp] theorem setLatch_attached (l : Line) (b : Bool) : (setLatch l b s).attached = s.attached :=
    by cases l <;> rfl
@[simp] theorem setLatch_active (l : Line) (b : Bool) : (setLatch l b s).active = s.active :=
    by cases l <;> rfl
@[simp] theorem setLatch_quiet (l : Line) (b : Bool) : (setLatch l b s).quiet = s.quiet := by cases l <;> rfl

/-! ### `enterHandler` -/

@[simp] theorem enterHandler_key (l : Line) : (enterHandler l s).key = s.key := by cases l <;> rfl
@[simp] theorem enterHandler_controller (l : Line) : (enterHandler l s).controller = s.controller :=
    by cases l <;> rfl
@[simp] theorem enterHandler_irqIds (l : Line) : (enterHandler l s).irqIds = s.irqIds := by cases l <;> rfl
@[simp] theorem enterHandler_wakeArmed (l : Line) : (enterHandler l s).wakeArmed = s.wakeArmed :=
    by cases l <;> rfl
@[simp] theorem enterHandler_wakeCapable (l : Line) : (enterHandler l s).wakeCapable = s.wakeCapable :=
    by cases l <;> rfl
@[simp] theorem enterHandler_sub (l : Line) : (enterHandler l s).sub = s.sub := by cases l <;> rfl
@[simp] theorem enterHandler_ep (l : Line) : (enterHandler l s).ep = s.ep := by cases l <;> rfl
@[simp] theorem enterHandler_capPowerKey (l : Line) : (enterHandler l s).capPowerKey = s.capPowerKey :=
    by cases l <;> rfl
@[simp] theorem enterHandler_phase (l : Line) : (enterHandler l s).phase = s.phase := by cases l <;> rfl
@[simp] theorem enterHandler_btn (l : Line) : (enterHandler l s).btn = s.btn := by cases l <;> rfl
@[simp] theorem enterHandler_resp (l : Line) : (enterHandler l s).resp = s.resp := by cases l <;> rfl
@[simp] theorem enterHandler_params (l : Line) : (enterHandler l s).params = s.params := by cases l <;> rfl
@[simp] theorem enterHandler_draws (l : Line) : (enterHandler l s).draws = s.draws := by cases l <;> rfl
@[simp] theorem enterHandler_pending (l : Line) : (enterHandler l s).pending = s.pending := by cases l <;> rfl
@[simp] theorem enterHandler_attached (l : Line) : (enterHandler l s).attached = s.attached :=
    by cases l <;> rfl
@[simp] theorem enterHandler_active (l : Line) : (enterHandler l s).active = s.active := by cases l <;> rfl

/-! ### `latchEdge` -/

@[simp] theorem latchEdge_key (l : Line) (ld : Bool) : (latchEdge l ld s).key = s.key := by
  unfold latchEdge; split <;> [skip; split] <;> cases l <;> rfl
@[simp] theorem latchEdge_controller (l : Line) (ld : Bool) : (latchEdge l ld s).controller = s.controller := by
  unfold latchEdge; split <;> [skip; split] <;> cases l <;> rfl
@[simp] theorem latchEdge_irqIds (l : Line) (ld : Bool) : (latchEdge l ld s).irqIds = s.irqIds := by
  unfold latchEdge; split <;> [skip; split] <;> cases l <;> rfl
@[simp] theorem latchEdge_wakeArmed (l : Line) (ld : Bool) : (latchEdge l ld s).wakeArmed = s.wakeArmed := by
  unfold latchEdge; split <;> [skip; split] <;> cases l <;> rfl
@[simp] theorem latchEdge_wakeCapable (l : Line) (ld : Bool) : (latchEdge l ld s).wakeCapable = s.wakeCapable := by
  unfold latchEdge; split <;> [skip; split] <;> cases l <;> rfl
@[simp] theorem latchEdge_sub (l : Line) (ld : Bool) : (latchEdge l ld s).sub = s.sub := by
  unfold latchEdge; split <;> [skip; split] <;> cases l <;> rfl
@[simp] theorem latchEdge_ep (l : Line) (ld : Bool) : (latchEdge l ld s).ep = s.ep := by
  unfold latchEdge; split <;> [skip; split] <;> cases l <;> rfl
@[simp] theorem latchEdge_capPowerKey (l : Line) (ld : Bool) : (latchEdge l ld s).capPowerKey = s.capPowerKey := by
  unfold latchEdge; split <;> [skip; split] <;> cases l <;> rfl
@[simp] theorem latchEdge_phase (l : Line) (ld : Bool) : (latchEdge l ld s).phase = s.phase := by
  unfold latchEdge; split <;> [skip; split] <;> cases l <;> rfl
@[simp] theorem latchEdge_sink (l : Line) (ld : Bool) : (latchEdge l ld s).sink = s.sink := by
  unfold latchEdge; split <;> [skip; split] <;> cases l <;> rfl
@[simp] theorem latchEdge_btn (l : Line) (ld : Bool) : (latchEdge l ld s).btn = s.btn := by
  unfold latchEdge; split <;> [skip; split] <;> cases l <;> rfl
@[simp] theorem latchEdge_inflight (l : Line) (ld : Bool) : (latchEdge l ld s).inflight = s.inflight := by
  unfold latchEdge; split <;> [skip; split] <;> cases l <;> rfl
@[simp] theorem latchEdge_resp (l : Line) (ld : Bool) : (latchEdge l ld s).resp = s.resp := by
  unfold latchEdge; split <;> [skip; split] <;> cases l <;> rfl
@[simp] theorem latchEdge_params (l : Line) (ld : Bool) : (latchEdge l ld s).params = s.params := by
  unfold latchEdge; split <;> [skip; split] <;> cases l <;> rfl
@[simp] theorem latchEdge_draws (l : Line) (ld : Bool) : (latchEdge l ld s).draws = s.draws := by
  unfold latchEdge; split <;> [skip; split] <;> cases l <;> rfl
@[simp] theorem latchEdge_pending (l : Line) (ld : Bool) : (latchEdge l ld s).pending = s.pending := by
  unfold latchEdge; split <;> [skip; split] <;> cases l <;> rfl
@[simp] theorem latchEdge_attached (l : Line) (ld : Bool) : (latchEdge l ld s).attached = s.attached := by
  unfold latchEdge; split <;> [skip; split] <;> cases l <;> rfl
@[simp] theorem latchEdge_active (l : Line) (ld : Bool) : (latchEdge l ld s).active = s.active := by
  unfold latchEdge; split <;> [skip; split] <;> cases l <;> rfl
@[simp] theorem latchEdge_quiet (l : Line) (ld : Bool) : (latchEdge l ld s).quiet = s.quiet := by
  unfold latchEdge; split <;> [skip; split] <;> cases l <;> rfl

/-! ### `suspendSubs` -/

@[simp] theorem suspendSubs_key : (suspendSubs s).key = s.key := by
  unfold suspendSubs; split <;> [split; skip] <;> rfl
@[simp] theorem suspendSubs_stclr : (suspendSubs s).stclr = s.stclr := by
  unfold suspendSubs; split <;> [split; skip] <;> rfl
@[simp] theorem suspendSubs_releaseLatch : (suspendSubs s).releaseLatch = s.releaseLatch := by
  unfold suspendSubs; split <;> [split; skip] <;> rfl
@[simp] theorem suspendSubs_controller : (suspendSubs s).controller = s.controller := by
  unfold suspendSubs; split <;> [split; skip] <;> rfl
@[simp] theorem suspendSubs_irqIds : (suspendSubs s).irqIds = s.irqIds := by
  unfold suspendSubs; split <;> [split; skip] <;> rfl
@[simp] theorem suspendSubs_wakeArmed : (suspendSubs s).wakeArmed = s.wakeArmed := by
  unfold suspendSubs; split <;> [split; skip] <;> rfl
@[simp] theorem suspendSubs_wakeCapable : (suspendSubs s).wakeCapable = s.wakeCapable := by
  unfold suspendSubs; split <;> [split; skip] <;> rfl
@[simp] theorem suspendSubs_ep : (suspendSubs s).ep = s.ep := by
  unfold suspendSubs; split <;> [split; skip] <;> rfl
@[simp] theorem suspendSubs_capPowerKey : (suspendSubs s).capPowerKey = s.capPowerKey := by
  unfold suspendSubs; split <;> [split; skip] <;> rfl
@[simp] theorem suspendSubs_phase : (suspendSubs s).phase = s.phase := by
  unfold suspendSubs; split <;> [split; skip] <;> rfl
@[simp] theorem suspendSubs_sink : (suspendSubs s).sink = s.sink := by
  unfold suspendSubs; split <;> [split; skip] <;> rfl
@[simp] theorem suspendSubs_btn : (suspendSubs s).btn = s.btn := by
  unfold suspendSubs; split <;> [split; skip] <;> rfl
@[simp] theorem suspendSubs_inflight : (suspendSubs s).inflight = s.inflight := by
  unfold suspendSubs; split <;> [split; skip] <;> rfl
@[simp] theorem suspendSubs_resp : (suspendSubs s).resp = s.resp := by
  unfold suspendSubs; split <;> [split; skip] <;> rfl
@[simp] theorem suspendSubs_params : (suspendSubs s).params = s.params := by
  unfold suspendSubs; split <;> [split; skip] <;> rfl
@[simp] theorem suspendSubs_draws : (suspendSubs s).draws = s.draws := by
  unfold suspendSubs; split <;> [split; skip] <;> rfl
@[simp] theorem suspendSubs_pending : (suspendSubs s).pending = s.pending := by
  unfold suspendSubs; split <;> [split; skip] <;> rfl
@[simp] theorem suspendSubs_attached : (suspendSubs s).attached = s.attached := by
  unfold suspendSubs; split <;> [split; skip] <;> rfl
@[simp] theorem suspendSubs_active : (suspendSubs s).active = s.active := by
  unfold suspendSubs; split <;> [split; skip] <;> rfl
@[simp] theorem suspendSubs_pressLatch : (suspendSubs s).pressLatch = s.pressLatch := by
  unfold suspendSubs; split <;> [split; skip] <;> rfl
@[simp] theorem suspendSubs_quiet : (suspendSubs s).quiet = s.quiet := by
  unfold suspendSubs; split <;> [split; skip] <;> rfl

/-! ### `resumeSubs` -/

@[simp] theorem resumeSubs_key : (resumeSubs s).key = s.key := by
  unfold resumeSubs; split <;> [split; skip] <;> rfl
@[simp] theorem resumeSubs_stclr : (resumeSubs s).stclr = s.stclr := by
  unfold resumeSubs; split <;> [split; skip] <;> rfl
@[simp] theorem resumeSubs_releaseLatch : (resumeSubs s).releaseLatch = s.releaseLatch := by
  unfold resumeSubs; split <;> [split; skip] <;> rfl
@[simp] theorem resumeSubs_controller : (resumeSubs s).controller = s.controller := by
  unfold resumeSubs; split <;> [split; skip] <;> rfl
@[simp] theorem resumeSubs_irqIds : (resumeSubs s).irqIds = s.irqIds := by
  unfold resumeSubs; split <;> [split; skip] <;> rfl
@[simp] theorem resumeSubs_wakeArmed : (resumeSubs s).wakeArmed = s.wakeArmed := by
  unfold resumeSubs; split <;> [split; skip] <;> rfl
@[simp] theorem resumeSubs_wakeCapable : (resumeSubs s).wakeCapable = s.wakeCapable := by
  unfold resumeSubs; split <;> [split; skip] <;> rfl
@[simp] theorem resumeSubs_ep : (resumeSubs s).ep = s.ep := by
  unfold resumeSubs; split <;> [split; skip] <;> rfl
@[simp] theorem resumeSubs_capPowerKey : (resumeSubs s).capPowerKey = s.capPowerKey := by
  unfold resumeSubs; split <;> [split; skip] <;> rfl
@[simp] theorem resumeSubs_phase : (resumeSubs s).phase = s.phase := by
  unfold resumeSubs; split <;> [split; skip] <;> rfl
@[simp] theorem resumeSubs_sink : (resumeSubs s).sink = s.sink := by
  unfold resumeSubs; split <;> [split; skip] <;> rfl
@[simp] theorem resumeSubs_btn : (resumeSubs s).btn = s.btn := by
  unfold resumeSubs; split <;> [split; skip] <;> rfl
@[simp] theorem resumeSubs_inflight : (resumeSubs s).inflight = s.inflight := by
  unfold resumeSubs; split <;> [split; skip] <;> rfl
@[simp] theorem resumeSubs_resp : (resumeSubs s).resp = s.resp := by
  unfold resumeSubs; split <;> [split; skip] <;> rfl
@[simp] theorem resumeSubs_params : (resumeSubs s).params = s.params := by
  unfold resumeSubs; split <;> [split; skip] <;> rfl
@[simp] theorem resumeSubs_draws : (resumeSubs s).draws = s.draws := by
  unfold resumeSubs; split <;> [split; skip] <;> rfl
@[simp] theorem resumeSubs_pending : (resumeSubs s).pending = s.pending := by
  unfold resumeSubs; split <;> [split; skip] <;> rfl
@[simp] theorem resumeSubs_attached : (resumeSubs s).attached = s.attached := by
  unfold resumeSubs; split <;> [split; skip] <;> rfl
@[simp] theorem resumeSubs_active : (resumeSubs s).active = s.active := by
  unfold resumeSubs; split <;> [split; skip] <;> rfl
@[simp] theorem resumeSubs_pressLatch : (resumeSubs s).pressLatch = s.pressLatch := by
  unfold resumeSubs; split <;> [split; skip] <;> rfl
@[simp] theorem resumeSubs_quiet : (resumeSubs s).quiet = s.quiet := by
  unfold resumeSubs; split <;> [split; skip] <;> rfl

/-! ### Values by line -/

@[simp] theorem at_press {α : Type} (v : PerLine α) : v.at .press = v.press := rfl
@[simp] theorem at_release {α : Type} (v : PerLine α) : v.at .release = v.release := rfl
@[simp] theorem set_press {α : Type} (v : PerLine α) (x : α) : v.set .press x = ⟨x, v.release⟩ := rfl
@[simp] theorem set_release {α : Type} (v : PerLine α) (x : α) : v.set .release x = ⟨v.press, x⟩ := rfl

theorem at_set {α : Type} (v : PerLine α) (l l' : Line) (x : α) :
    (v.set l x).at l' = if l' = l then x else v.at l' := by
  cases l <;> cases l' <;> rfl

@[simp] theorem latch_press : s.latch .press = s.pressLatch := rfl
@[simp] theorem latch_release : s.latch .release = s.releaseLatch := rfl

theorem attached_iff : s.attached = true ↔ ∃ c, s.controller = some c := Option.isSome_iff_exists
theorem active_iff : s.active = true ↔ ∃ ids, s.irqIds = some ids := Option.isSome_iff_exists
theorem not_attached_iff : s.attached = false ↔ s.controller = none := Option.isSome_eq_false_iff.trans Option.isNone_iff_eq_none
theorem not_active_iff : s.active = false ↔ s.irqIds = none := Option.isSome_eq_false_iff.trans Option.isNone_iff_eq_none

theorem quiet_iff : s.quiet = true ↔ s.inflight.press = .none ∧ s.inflight.release = .none := by
  simp [State.quiet]

theorem mayMoveFrom_iff (ph : Phase) :
    s.mayMoveFrom ph = true ↔ s.attached = true ∧ s.phase = ph ∧ s.quiet = true := by
  simp [State.mayMoveFrom, and_assoc]

end Sys2Proof.Machine
end

