-- ==== Sys2Proof/Laws/Ops.lean ====
section
/-! SUPPORT. What the admitted parameters guarantee, and one lemma for each shared operation that says
everything it can do: the register transport, the bits of a register, the latches. -/

namespace Sys2Proof.Machine

/-! ### Parameters -/

theorem params_facts (p : Params) :
    2 ≤ p.regw ∧ p.regw ≤ 30 ∧ p.pressLatchBit < p.regw
      ∧ ∀ prof g, p.mask prof g ≠ 0 ∧ (p.mask prof g).toNat < 2 ^ p.regw := by
  have h := p.ok
  simp only [ParamValues.admitted, maskAdmitted, Bool.and_eq_true, decide_eq_true_eq, bne_iff_ne] at h
  obtain ⟨⟨⟨⟨⟨⟨h1, h2⟩, h3⟩, h4⟩, h5⟩, h6⟩, h7⟩ := h
  refine ⟨h1, h2, h3, fun prof g => ?_⟩
  cases prof <;> cases g <;> assumption

theorem regw_le (p : Params) : p.regw ≤ 30 := (params_facts p).2.1

theorem pressLatchBit_lt_regw (p : Params) : p.pressLatchBit < p.regw := (params_facts p).2.2.1

theorem pressLatchBit_lt (p : Params) : p.pressLatchBit < 32 :=
  Nat.lt_of_lt_of_le (pressLatchBit_lt_regw p) (Nat.le_trans (regw_le p) (by decide))

theorem mask_ne_zero (p : Params) (prof : Profile) (g : Setting) : p.mask prof g ≠ 0 :=
  ((params_facts p).2.2.2 prof g).1

theorem mask_lt (p : Params) (prof : Profile) (g : Setting) : (p.mask prof g).toNat < 2 ^ p.regw :=
  ((params_facts p).2.2.2 prof g).2

/-! ### The register transport -/

/-- A register holds what was last written to it, and writing the one leaves the other (R55). -/
@[simp] theorem readRegister_writeRegister (r r' : Register) (v : Word) (s : State) :
    readRegister r' (writeRegister r v s) = if r' = r then v else readRegister r' s := by
  cases r <;> cases r' <;> rfl

/-- A read gives the register's content, or the transport's error value. -/
theorem memRead_eq (r : Register) (tf : Bool) (s : State) :
    memRead r tf s = if tf then .failed (Config.drawTerr s.draws) else .value (readRegister r s) := rfl

/-- An update of `KEY` writes the bits of the mask, or fails and changes nothing. -/
theorem regUpdateBits_key (m v : Word) (tf : Bool) (s : State) :
    regUpdateBits .key m v tf s = if tf then .failed else .done { s with key := updatedBits s.key m v } := rfl

/-- Two reads differ only where the two contents do. -/
theorem memRead_ne_iff (r : Register) (s t : State) :
    memRead r false t ≠ memRead r false s ↔ readRegister r t ≠ readRegister r s := by
  simp [memRead]

/-! ### The bits of a register -/

/-- R59 bit by bit. -/
theorem getLsbD_updatedBits (old m v : Word) (j : Nat) :
    (updatedBits old m v).getLsbD j = if m.getLsbD j then v.getLsbD j else old.getLsbD j := by
  by_cases hj : j < 32
  · simp only [updatedBits, BitVec.getLsbD_or, BitVec.getLsbD_and, BitVec.getLsbD_not, hj, decide_true]
    cases m.getLsbD j <;> simp
  · have hj' : 32 ≤ j := by omega
    simp [BitVec.getLsbD_of_ge _ _ hj']

theorem updatedBits_and_self (old m v : Word) : updatedBits old m v &&& m = v &&& m := by
  apply BitVec.eq_of_getLsbD_eq
  intro j hj
  simp only [BitVec.getLsbD_and, getLsbD_updatedBits]
  cases m.getLsbD j <;> simp

theorem updatedBits_and_disjoint {old m v m' : Word} (h : m &&& m' = 0) :
    updatedBits old m v &&& m' = old &&& m' := by
  apply BitVec.eq_of_getLsbD_eq
  intro j hj
  have hb := congrArg (fun w => BitVec.getLsbD w j) h
  simp only [BitVec.getLsbD_and] at hb
  simp only [BitVec.getLsbD_and, getLsbD_updatedBits]
  cases hm : m.getLsbD j <;> cases hm' : m'.getLsbD j <;> simp_all

/-- The later of two updates under one mask is all that is left of them. -/
theorem updatedBits_updatedBits (old m v w : Word) :
    updatedBits (updatedBits old m v) m w = updatedBits old m w := by
  apply BitVec.eq_of_getLsbD_eq
  intro j hj
  simp only [getLsbD_updatedBits]
  cases m.getLsbD j <;> simp

/-- Updates under disjoint masks commute. -/
theorem updatedBits_comm {m m' : Word} (h : m &&& m' = 0) (old v w : Word) :
    updatedBits (updatedBits old m v) m' w = updatedBits (updatedBits old m' w) m v := by
  apply BitVec.eq_of_getLsbD_eq
  intro j hj
  have hb := congrArg (fun w => BitVec.getLsbD w j) h
  simp only [BitVec.getLsbD_and] at hb
  simp only [getLsbD_updatedBits]
  cases hm : m.getLsbD j <;> cases hm' : m'.getLsbD j <;> simp_all

/-- A word is below `2^n` exactly when it has no bit at or above `n`. -/
theorem toNat_lt_iff_getLsbD (w : Word) (n : Nat) : w.toNat < 2 ^ n ↔ ∀ j, n ≤ j → w.getLsbD j = false := by
  constructor
  · intro h j hj
    simp only [BitVec.getLsbD]
    exact Nat.testBit_lt_two_pow (Nat.lt_of_lt_of_le h (Nat.pow_le_pow_right (by decide) hj))
  · intro h
    by_contra hc
    obtain ⟨i, hi, hb⟩ := Nat.exists_ge_and_testBit_of_ge_two_pow (Nat.le_of_not_lt hc)
    have := h i hi
    simp only [BitVec.getLsbD] at this
    simp [this] at hb

theorem updatedBits_lt {old m v : Word} {n : Nat} (ho : old.toNat < 2 ^ n) (hm : m.toNat < 2 ^ n) :
    (updatedBits old m v).toNat < 2 ^ n := by
  rw [toNat_lt_iff_getLsbD] at *
  intro j hj
  simp [getLsbD_updatedBits, hm j hj, ho j hj]

/-- One bit takes its value, the others stay. -/
theorem getLsbD_withBit (w : Word) (i : Nat) (b : Bool) (j : Nat) (hi : i < 32) :
    (withBit w i b).getLsbD j = if j = i then b else w.getLsbD j := by
  by_cases hj : j < 32
  · cases b
    · simp only [withBit, Bool.false_eq_true, if_false, BitVec.getLsbD_and, BitVec.getLsbD_not,
        BitVec.getLsbD_twoPow, hj, decide_true]
      by_cases h : j = i
      · subst h; simp [hj]
      · simp [h, Ne.symm h]
    · simp only [withBit, if_true, BitVec.getLsbD_or, BitVec.getLsbD_twoPow]
      by_cases h : j = i
      · subst h; simp [hj]
      · simp [h, Ne.symm h]
  · have hj' : 32 ≤ j := by omega
    have : j ≠ i := by omega
    simp [BitVec.getLsbD_of_ge _ _ hj', this]

theorem withBit_lt {w : Word} {n i : Nat} (b : Bool) (hw : w.toNat < 2 ^ n) (hi : i < n) (hi' : i < 32) :
    (withBit w i b).toNat < 2 ^ n := by
  rw [toNat_lt_iff_getLsbD] at *
  intro j hj
  rw [getLsbD_withBit _ _ _ _ hi', if_neg (by omega)]
  exact hw j hj

/-- `v[REGW-1:0]` is the remainder by `2^REGW`. -/
theorem toReg_eq_ofNat_mod (p : Params) (v : Word) : toReg p v = BitVec.ofNat 32 (v.toNat % 2 ^ p.regw) := by
  apply BitVec.eq_of_toNat_eq
  have hle : 2 ^ p.regw ≤ 2 ^ 30 := Nat.pow_le_pow_right (by decide) (regw_le p)
  have hpos : 0 < 2 ^ p.regw := Nat.two_pow_pos _
  have hlt := Nat.mod_lt v.toNat hpos
  have : (2 ^ p.regw - 1) % 2 ^ 32 = 2 ^ p.regw - 1 := Nat.mod_eq_of_lt (by omega)
  have h2 : v.toNat % 2 ^ p.regw % 2 ^ 32 = v.toNat % 2 ^ p.regw := Nat.mod_eq_of_lt (by omega)
  simp only [toReg, regMask, BitVec.toNat_and, BitVec.toNat_ofNat, this, h2, Nat.and_two_pow_sub_one_eq_mod]

theorem toReg_lt (p : Params) (v : Word) : (toReg p v).toNat < 2 ^ p.regw := by
  have hle : 2 ^ p.regw ≤ 2 ^ 30 := Nat.pow_le_pow_right (by decide) (regw_le p)
  have hlt := Nat.mod_lt v.toNat (Nat.two_pow_pos p.regw)
  rw [toReg_eq_ofNat_mod, BitVec.toNat_ofNat, Nat.mod_eq_of_lt (by omega)]
  exact hlt

/-! ### The latches -/

@[simp] theorem pressLatch_setPressLatch (b : Bool) (s : State) : (setPressLatch b s).pressLatch = b := by
  simp [State.pressLatch, getLsbD_withBit _ _ _ _ (pressLatchBit_lt s.params)]

theorem latch_setLatch (l l' : Line) (b : Bool) (s : State) :
    (setLatch l b s).latch l' = if l' = l then b else s.latch l' := by
  cases l <;> cases l' <;> simp [setLatch, State.latch, State.pressLatch,
    getLsbD_withBit _ _ _ _ (pressLatchBit_lt s.params)]

/-- An edge sets its line's latch on an enabled subscribed line, and by the draw on any other. -/
theorem latch_latchEdge (l l' : Line) (ld : Bool) (s : State) :
    (latchEdge l ld s).latch l' =
      if l' = l then s.latch l || ((s.sub.at l).subscribed && (s.sub.at l).enabled) || ld else s.latch l' := by
  unfold latchEdge
  split
  · by_cases h : l' = l <;> simp_all [latch_setLatch]
  · split
    · by_cases h : l' = l <;> simp_all [latch_setLatch]
    · by_cases h : l' = l
      · subst h; simp_all
      · simp_all

end Sys2Proof.Machine
end

