-- ==== Sys2Proof/Laws/Codec.lean ====
section
/-! SUPPORT. The small lemmas of the codec: the lowest set bit, a field and its insertion, the shape of
a well-formed mask, the lookup, and the one-step equation of the scan. -/

namespace Sys2Proof.Machine

/-! ### The lowest set bit -/

/-- The model's `lsb` is the position of the lowest set bit. -/
theorem lsb_of_isLowestBit {m : Word} {k : Nat} (h : IsLowestBit m k) : lsb m = k := by
  have hk : k < 32 := by
    by_contra hc
    have := h.1
    rw [BitVec.getLsbD_of_ge _ _ (by omega)] at this
    cases this
  have hf : (List.range 32).find? (fun i => m.getLsbD i) = some k := by
    rw [List.find?_range_eq_some]
    exact ⟨h.1, List.mem_range.mpr hk, fun j hj => by simp [h.2 j hj]⟩
  simp [lsb, hf]

/-- A nonzero mask has a lowest set bit. -/
theorem exists_isLowestBit {m : Word} (h : m ≠ 0) : ∃ k, k < 32 ∧ IsLowestBit m k := by
  have hex : ∃ i, m.getLsbD i = true := by
    by_contra hc
    apply h
    apply BitVec.eq_of_getLsbD_eq
    intro i _
    have : m.getLsbD i = false := by
      cases hb : m.getLsbD i
      · rfl
      · exact absurd ⟨i, hb⟩ hc
    simp [this]
  refine ⟨Nat.find hex, ?_, Nat.find_spec hex, fun j hj => ?_⟩
  · by_contra hc
    have := Nat.find_spec hex
    rw [BitVec.getLsbD_of_ge _ _ (by omega)] at this
    cases this
  · have := Nat.find_min hex hj
    simpa using this

/-! ### Well-formed masks -/

theorem getLsbD_runOfOnes (k n j : Nat) (h : k + n ≤ 32) :
    (runOfOnes k n).getLsbD j = (decide (k ≤ j) && decide (j < k + n)) := by
  have hlt : (2 ^ n - 1) * 2 ^ k < 2 ^ 32 := by
    calc (2 ^ n - 1) * 2 ^ k < 2 ^ n * 2 ^ k :=
          Nat.mul_lt_mul_of_pos_right (Nat.sub_lt (Nat.two_pow_pos n) (by decide)) (Nat.two_pow_pos k)
      _ = 2 ^ (k + n) := by rw [← Nat.pow_add, Nat.add_comm]
      _ ≤ 2 ^ 32 := Nat.pow_le_pow_right (by decide) h
  simp only [runOfOnes, BitVec.getLsbD, BitVec.toNat_ofNat, Nat.mod_eq_of_lt hlt]
  rw [Nat.testBit_mul_two_pow]
  by_cases hj : k ≤ j
  · simp only [hj, decide_true, Bool.true_and, Nat.testBit_two_pow_sub_one]
    congr 1
    simp only [eq_iff_iff]
    omega
  · simp [hj]

/-- A well-formed mask is a run of at least two ones inside the register. -/
theorem maskWf_shape {regw : Nat} {m : Word} (h : maskWf regw m = true) :
    ∃ k n, 2 ≤ n ∧ k + n ≤ regw ∧ m = runOfOnes k n := by
  simp only [maskWf, List.any_eq_true, List.mem_range, Bool.and_eq_true, decide_eq_true_eq, beq_iff_eq] at h
  obtain ⟨k, -, n, -, ⟨h2, hkn⟩, hm⟩ := h
  exact ⟨k, n, h2, hkn, hm⟩

theorem isLowestBit_runOfOnes {k n : Nat} (hn : 2 ≤ n) (h : k + n ≤ 32) : IsLowestBit (runOfOnes k n) k := by
  refine ⟨?_, fun j hj => ?_⟩
  · simp [getLsbD_runOfOnes k n k h]; omega
  · simp [getLsbD_runOfOnes k n j h]; omega

theorem lsb_runOfOnes {k n : Nat} (hn : 2 ≤ n) (h : k + n ≤ 32) : lsb (runOfOnes k n) = k :=
  lsb_of_isLowestBit (isLowestBit_runOfOnes hn h)

/-! ### Fields -/

theorem getLsbD_index (i : Index) (j : Nat) (hj : 2 ≤ j) : i.getLsbD j = false :=
  BitVec.getLsbD_of_ge i j hj

/-- R84: under `MaskWF` a shifted index lies inside the mask. -/
theorem shifted_and_runOfOnes {k n : Nat} (hn : 2 ≤ n) (h : k + n ≤ 30) (i : Index) :
    shifted i (runOfOnes k n) &&& runOfOnes k n = shifted i (runOfOnes k n) := by
  have hl : lsb (runOfOnes k n) = k := lsb_runOfOnes hn (by omega)
  apply BitVec.eq_of_getLsbD_eq
  intro j hj
  simp only [shifted, hl, BitVec.getLsbD_and, BitVec.getLsbD_shiftLeft,
    BitVec.getLsbD_setWidth, getLsbD_runOfOnes k n j (by omega), hj, decide_true, Bool.true_and]
  by_cases h1 : j < k
  · simp [h1]
  · by_cases h2 : j < k + n
    · have : k ≤ j := by omega
      simp [h1, h2, this]
    · have : i.getLsbD (j - k) = false := getLsbD_index i _ (by omega)
      simp [h1, h2, this]

/-- R84: the field of a register that holds a shifted index is the index, whatever the other bits. -/
theorem field_of_and_eq_shifted {k n : Nat} (hn : 2 ≤ n) (h : k + n ≤ 30) (i : Index) (r : Word)
    (hr : r &&& runOfOnes k n = shifted i (runOfOnes k n)) :
    field r (runOfOnes k n) = i.setWidth 32 := by
  simp only [field, hr, shifted, lsb_runOfOnes hn (show k + n ≤ 32 by omega)]
  apply BitVec.eq_of_getLsbD_eq
  intro j hj
  simp only [BitVec.getLsbD_ushiftRight, BitVec.getLsbD_shiftLeft, BitVec.getLsbD_setWidth]
  by_cases h2 : j < 2
  · have h1 : k + j < 32 := by omega
    have h3 : ¬ k + j < k := by omega
    have h4 : k + j - k = j := by omega
    simp [h1, h3, h4, hj]
  · simp [getLsbD_index i j (by omega)]

/-- The lookup sees only the bits of the mask. -/
theorem durationOf_congr {r r' m : Word} (h : r' &&& m = r &&& m) (t : Table) :
    durationOf r' m t = durationOf r m t := by
  simp [durationOf, field, h]

theorem setWidth_index_inj {a b : Index} (h : a.setWidth 32 = b.setWidth 32) : a = b := by
  have := congrArg BitVec.toNat h
  simp only [BitVec.toNat_setWidth] at this
  apply BitVec.eq_of_toNat_eq
  have := a.isLt
  have := b.isLt
  omega

/-! ### The lookup and the scan -/

/-- The lookup position by position. -/
theorem durationOf_eq (r m : Word) (t : Table) :
    durationOf r m t =
      if (t.at 0).index.setWidth 32 = field r m then (t.at 0).durationMs
      else if (t.at 1).index.setWidth 32 = field r m then (t.at 1).durationMs
      else if (t.at 2).index.setWidth 32 = field r m then (t.at 2).durationMs
      else if (t.at 3).index.setWidth 32 = field r m then (t.at 3).durationMs
      else field r m := by
  simp only [durationOf, Table.entries, Table.at, List.find?_cons, List.find?_nil]
  by_cases h0 : t.pos0.index.setWidth 32 = field r m
  · simp [h0]
  have e0 := beq_eq_false_iff_ne.mpr h0
  by_cases h1 : t.pos1.index.setWidth 32 = field r m
  · simp only [e0, h0, h1, if_true, if_false, beq_self_eq_true]
  have e1 := beq_eq_false_iff_ne.mpr h1
  by_cases h2 : t.pos2.index.setWidth 32 = field r m
  · simp only [e0, e1, h0, h1, h2, if_true, if_false, beq_self_eq_true]
  have e2 := beq_eq_false_iff_ne.mpr h2
  by_cases h3 : t.pos3.index.setWidth 32 = field r m
  · simp only [e0, e1, e2, h0, h1, h2, h3, if_true, if_false, beq_self_eq_true]
  · simp only [e0, e1, e2, beq_eq_false_iff_ne.mpr h3, h0, h1, h2, h3, if_false]

/-- The exact difference, without truncation. -/
theorem absdiff_eq_errorOf (e : DurationEntry) (req : Word) : absdiff e.durationMs req = errorOf e req := by
  simp only [absdiff, errorOf]
  omega

/-- The scan without its early stop: an error of 0 is never replaced (R121). -/
theorem nearestScan_zero (req : Word) (es : List DurationEntry) (i : Index) :
    nearestScan req es (some 0) i = i := by
  induction es with
  | nil => rfl
  | cons e es ih =>
    simp only [nearestScan, Option.all_some, Nat.not_lt_zero, decide_false, Bool.false_eq_true, if_false, ih,
      ite_self]

/-- One step of the scan, with a best error at hand (R119, R121). -/
theorem nearestScan_cons_some (req : Word) (e : DurationEntry) (es : List DurationEntry) (b : Nat) (i : Index) :
    nearestScan req (e :: es) (some b) i =
      if absdiff e.durationMs req < b then nearestScan req es (some (absdiff e.durationMs req)) e.index
      else if absdiff e.durationMs req = 0 then i else nearestScan req es (some b) i := by
  simp only [nearestScan, Option.all_some]
  by_cases h : absdiff e.durationMs req < b
  · by_cases h0 : absdiff e.durationMs req = 0
    · simp [h0, nearestScan_zero]
    · simp [h, h0]
  · by_cases h0 : absdiff e.durationMs req = 0
    · have hb : b = 0 := by omega
      simp [h0, hb]
    · simp [h, h0]

@[simp] theorem nearestScan_nil (req : Word) (best : Option Nat) (i : Index) :
    nearestScan req [] best i = i := rfl

/-- The first step of the scan: the last position always becomes the first best (R119). -/
theorem nearest_eq_scan (req : Word) (t : Table) :
    nearest req t =
      nearestScan req [t.at 2, t.at 1, t.at 0] (some (absdiff (t.at 3).durationMs req)) (t.at 3).index := by
  simp only [nearest, Table.entries, Table.at, List.reverse_cons, List.reverse_nil, List.nil_append,
    List.cons_append]
  rw [nearestScan]
  by_cases h0 : absdiff t.pos3.durationMs req = 0
  · simp [h0, nearestScan_zero]
  · simp [h0]

/-- What holds of every position holds of the four. -/
theorem forall_position (P : Fin 4 → Prop) : (∀ q, P q) ↔ P 0 ∧ P 1 ∧ P 2 ∧ P 3 :=
  ⟨fun h => ⟨h 0, h 1, h 2, h 3⟩, fun ⟨h0, h1, h2, h3⟩ q => by
    match q with
    | 0 => exact h0
    | 1 => exact h1
    | 2 => exact h2
    | 3 => exact h3⟩

end Sys2Proof.Machine
end

