-- ==== Sys2Proof/Laws/Decode.lean ====
section
/-! SUPPORT. The small lemmas of the decoder and the encoder: the rows do not overlap, which row an
instruction has, the bits of an encoded operand, and the decoder as a lookup in the opcode map. -/

namespace Sys2Proof

/-- The rows of R91 do not overlap: a row's own `CMD`, with the draw bit set where the row has one, is
selected by that row alone. -/
theorem selects_iff (o o' : Op) (d : Bool) (h : d = true → o'.mask = 0xF7) :
    o.selects (o'.pattern ||| byteBit d 3) = true ↔ o = o' := by
  revert h
  cases d <;> cases o' <;> cases o <;> decide

/-- Only a row whose mask leaves `CMD[3]` open has a draw (R86). -/
theorem mask_of_draw (i : Instr) (h : i.draw = true) : i.op.mask = 0xF7 := by
  cases i <;> first | rfl | simp [Instr.draw] at h

/-- The draw bit of a row's own `CMD` is the draw. -/
theorem drawBit_pattern (o : Op) (d : Bool) (h : d = true → o.mask = 0xF7) :
    drawBit (o.pattern ||| byteBit d 3) = d := by
  revert h
  cases d <;> cases o <;> decide

/-- The instruction a row stands for has that row. -/
@[simp] theorem op_instr_op (o : Op) (d : Bool) (arg : Word) : (o.instr d arg).op = o := by
  cases o <;> rfl

theorem getLsbD_argBit (b : Bool) (i j : Nat) :
    (argBit b i).getLsbD j = (b && decide (j < 32) && decide (i = j)) := by
  cases b
  · simp [argBit]
  · by_cases h : i = j <;> simp [argBit, BitVec.getLsbD_twoPow, h]

theorem getLsbD_argField (n : Nat) (v : BitVec n) (i j : Nat) :
    (argField n v i).getLsbD j = (decide (j < 32) && !decide (j < i) && v.getLsbD (j - i)) := by
  by_cases h : j < 32
  · simp [argField, h]
  · simp [argField, h]

/-- A bit of a word encoded where it was read is that bit of the word. -/
theorem argBit_getLsbD (x : Word) (i : Nat) : argBit (x.getLsbD i) i = x &&& argBit true i := by
  apply BitVec.eq_of_getLsbD_eq
  intro j hj
  by_cases h : i = j <;> simp [getLsbD_argBit, h, hj, -BitVec.getLsbD_eq_getElem]

/-- A field of a word encoded where it was read is that field of the word. -/
theorem argField_extractLsb' (x : Word) (n i : Nat) :
    argField n (x.extractLsb' i n) i = x &&& argField n (BitVec.allOnes n) i := by
  apply BitVec.eq_of_getLsbD_eq
  intro j hj
  by_cases h : j < i
  · simp [getLsbD_argField, h, -BitVec.getLsbD_eq_getElem]
  · simp [getLsbD_argField, h, hj, BitVec.getLsbD_extractLsb', show i + (j - i) = j by omega, -BitVec.getLsbD_eq_getElem, Bool.and_comm]

/-- R90, R103: of the word an operand was read from, the encoder keeps the bits that carry it. -/
theorem instr_arg_eq (o : Op) (d : Bool) (x : Word) :
    (o.instr d x).arg = x &&& Machine.operandBits (o.instr d x) := by
  have ones : x &&& 4294967295 = x := BitVec.and_allOnes
  have zeros : x &&& 0 = 0 := BitVec.and_zero
  have last : ∀ y : Word, y ||| 0 = y := fun _ => BitVec.or_zero
  cases o <;> simp only [Op.instr, Instr.arg, Machine.operandBits, AttachArg.toArg, AttachArg.ofArg, List.foldr,
    argBit_getLsbD, argField_extractLsb', last, ones, zeros, ← BitVec.and_or_distrib_left]
  all_goals exact congrArg (x &&& ·) (by decide)

/-- The decoder answers the row that selects `CMD` first. -/
theorem decode_of_find {c : Command} {o : Op} (h : Op.all.find? (fun o => o.selects c.cmd) = some o) :
    decode c = .ok (o.instr (drawBit c.cmd) c.arg) := by
  simp [decode, h]

/-- What the decoder answers comes from the row that selects `CMD`. -/
theorem find_of_decode {c : Command} {i : Instr} (h : decode c = .ok i) :
    Op.all.find? (fun o => o.selects c.cmd) = some i.op ∧ i = i.op.instr (drawBit c.cmd) c.arg := by
  unfold decode at h
  split at h
  · next o ho =>
    cases h
    simp [ho]
  · cases h

/-- `opcodeMap` of Safety.lean is the map the decoder uses. -/
theorem opcodeMap_eq : Machine.opcodeMap = Op.all.map fun o => (o.pattern, o.mask) := by decide

end Sys2Proof
end

