-- ==== Sys2Proof/Laws/Exec.lean ====
section
/-! SUPPORT. The inversion of `exec`, said once: where an instruction answers a next state, `Effect`
lists all the forms that state can have, each with the guard under which it arises. Claims about all
instructions are case analyses over `Effect`, with no unfolding of a meaning. -/

namespace Sys2Proof.Machine

/-- The next states an instruction can lead to. -/
inductive Effect (i : Instr) (s : State) : State → Prop where
  /-- Refused (R12): nothing changes. -/
  | refused : Effect i s (reply .refused 0 s)
  /-- An error kind (R230): nothing changes. -/
  | errored (e : ErrorKind) (info : Word) : Effect i s (reply e.status info s)
  /-- A failed calibration read (R132). -/
  | readFailed (g : Setting) : i = calrdOf true g → Effect i s (reply .transportFailure (Config.drawTerr s.draws) (drawn s))
  /-- An answer that writes no state: the codec, a read, the gate, an identifier of no line. -/
  | answered (res : Word) : (∀ a, i ≠ .attach a) → Effect i s (reply .ok res s)
  /-- A calibration write (R135). -/
  | written (g : Setting) (req : Word) (c : Controller) (m v : Word) : i = calwrOf false req g →
      s.controller = some c → s.phase ≠ .off → m = s.params.mask c.profile g →
      v = shiftedNearest req m (s.params.table c.profile g) →
      Effect i s (reply .ok v { s with key := updatedBits s.key m v })
  /-- One whole invocation of the handler (R150). -/
  | handled (l : Line) (id : Word) : i = .irq id → s.active = true → s.phase ≠ .off → s.inflight.at l = .none →
      Effect i s (reply .ok 0 (runHandler l s))
  /-- A falling edge (R156). -/
  | fell (ld : Bool) : i = .edgeF ld → s.phase ≠ .off → s.btn = .high →
      Effect i s (reply .ok 0 (latchEdge .press ld { s with btn := .low }))
  /-- A rising edge (R157). -/
  | rose (ld : Bool) : i = .edgeR ld → s.phase ≠ .off → s.btn = .low →
      Effect i s (reply .ok 0 (latchEdge .release ld { s with btn := .high }))
  /-- A delivery (R158). -/
  | delivered (l : Line) : i = deliverOf l → s.deliverable l = true → Effect i s (reply .ok 0 (enterHandler l s))
  /-- The end of a handler (R159). -/
  | finished (l : Line) : i = finishOf l → s.inflight.at l = .needSync → s.phase ≠ .off →
      Effect i s (reply .ok 0 (returnHandler l s))
  /-- `WAKEARM` (R172). -/
  | armed (b : Bool) : i = .wakearm b → s.active = true → s.wakeCapable = true → s.phase = .run →
      Effect i s (reply .ok 0 { s with wakeArmed := b })
  /-- `SUSPEND` (R174). -/
  | suspended : i = .suspend → s.mayMoveFrom .run = true →
      Effect i s (reply .ok 0 (setPhase .suspended (suspendSubs s)))
  /-- `SHUTDOWN` (R184). -/
  | shutDown : i = .shutdown → s.mayMoveFrom .run = true →
      Effect i s (reply .ok 0 (setPhase .off (suspendSubs s)))
  /-- `IRQOFF` (R178). -/
  | irqsOff : i = .irqoff → s.mayMoveFrom .suspended = true → Effect i s (reply .ok 0 (setPhase .noirq s))
  /-- `RESUME_NOIRQ` (R180), with the value it leaves in `STCLR`. -/
  | resumedNoirq (tf : Bool) (c : Controller) : i = .resumeNoirq tf → s.mayMoveFrom .noirq = true →
      s.controller = some c →
      Effect i s (reply .ok 0 (setPhase .noirqResumed
        (if c.latchClear && !tf then setPressLatch false s else s)))
  /-- `IRQON` (R181). -/
  | irqsOn : i = .irqon → s.mayMoveFrom .noirqResumed = true → Effect i s (reply .ok 0 (setPhase .irqResumed s))
  /-- `RESUME` (R182). -/
  | resumed : i = .resume → s.mayMoveFrom .irqResumed = true →
      Effect i s (reply .ok 0 (setPhase .run (resumeSubs s)))
  /-- `ATTACH` where the gate declines (R212). -/
  | attachedInactive (a : AttachArg) : i = .attach a → s.attached = false →
      Effect i s (reply .ok 0 (commitInactive (attachController a) s))
  /-- `ATTACH` after all seven steps (R204). -/
  | attachedActive (a : AttachArg) : i = .attach a → s.attached = false → a.pid ≠ a.rid →
      Effect i s (reply .ok 1 (commitActive (attachController a) (attachIds a) s))
  /-- `DETACH` (R210). -/
  | detached : i = .detach → s.mayMoveFrom .run = true → Effect i s (reply .ok 0 (clearController s))
  /-- `RESET` (R260). -/
  | reset : i = .reset → Effect i s (reply .ok 0 (drawn (resetAll s)))

/-! ### The guard of the operations that need a profile -/

theorem withController_turned_away {s : State} {body : Controller → StepOutcome}
    (h : s.attached = false ∨ s.phase = .off) : withController s body = refuse s := by
  unfold withController
  split
  · rfl
  · next c hc => rcases h with h | h <;> simp_all [State.attached]

theorem withController_runs {s : State} {c : Controller} (body : Controller → StepOutcome)
    (hc : s.controller = some c) (hp : s.phase ≠ .off) : withController s body = body c := by
  simp [withController, hc, hp]

theorem withController_cases (s : State) (body : Controller → StepOutcome) :
    withController s body = refuse s
      ∨ ∃ c, s.controller = some c ∧ s.phase ≠ .off ∧ withController s body = body c := by
  by_cases hp : s.phase = .off
  · exact .inl (withController_turned_away (.inr hp))
  · cases hc : s.controller with
    | none => exact .inl (withController_turned_away (.inl (by simp [State.attached, hc])))
    | some c => exact .inr ⟨c, rfl, hp, withController_runs body hc hp⟩

/-! ### Events -/

@[simp] theorem isKey_key (k : Key) (b : Bool) : (Event.key k b).isKey = true := rfl
@[simp] theorem isKey_sync : Event.sync.isKey = false := rfl
@[simp] theorem owed_none : Inflight.none.owed = 0 := rfl
@[simp] theorem owed_needSync : Inflight.needSync.owed = 1 := rfl
@[simp] theorem isKey_keyEventOf (l : Line) : (keyEventOf l).isKey = true := by cases l <;> rfl

/-! ### The inversion, family by family -/

/-- If the outcome is a next state, it is of a listed form. -/
def Lists (i : Instr) (s : State) (o : StepOutcome) : Prop := ∀ t, o = .next t → Effect i s t

theorem lists_next {i : Instr} {s t : State} (h : Effect i s t) : Lists i s (.next t) := by
  intro u hu
  cases hu
  exact h

theorem lists_refuse (i : Instr) (s : State) : Lists i s (refuse s) := lists_next .refused

theorem lists_decodeSetting (i : Instr) (hi : ∀ a, i ≠ .attach a) (g : Setting) (r : Word) (s : State) :
    Lists i s (decodeSetting g r s) := by
  unfold decodeSetting
  obtain h | ⟨c, -, -, h⟩ := withController_cases s _ <;> rw [h]
  · exact lists_refuse i s
  · exact lists_next (.answered _ hi)

theorem lists_encodeSetting (i : Instr) (hi : ∀ a, i ≠ .attach a) (g : Setting) (r : Word) (s : State) :
    Lists i s (encodeSetting g r s) := by
  unfold encodeSetting
  obtain h | ⟨c, -, -, h⟩ := withController_cases s _ <;> rw [h]
  · exact lists_refuse i s
  · exact lists_next (.answered _ hi)

theorem lists_calibrationRead (g : Setting) (tf : Bool) (s : State) :
    Lists (calrdOf tf g) s (calibrationRead g tf s) := by
  unfold calibrationRead
  obtain h | ⟨c, -, -, h⟩ := withController_cases s _ <;> rw [h]
  · exact lists_refuse _ s
  · cases tf
    · exact lists_next (.answered _ (by cases g <;> simp [calrdOf]))
    · exact lists_next (.readFailed g rfl)

theorem lists_calibrationWrite (g : Setting) (tf : Bool) (req : Word) (s : State) :
    Lists (calwrOf tf req g) s (calibrationWrite g tf req s) := by
  unfold calibrationWrite
  obtain h | ⟨c, hc, hp, h⟩ := withController_cases s _ <;> rw [h]
  · exact lists_refuse _ s
  · cases tf
    · exact lists_next (.written g req c _ _ rfl hc hp rfl rfl)
    · exact lists_next (.errored .invalidInput 0)

theorem lists_invokeHandler {id : Word} {l : Line} {s : State} (ha : s.active = true) (hp : s.phase ≠ .off) :
    Lists (.irq id) s (invokeHandler l s) := by
  unfold invokeHandler
  split
  · next h => exact lists_next (.handled l id rfl ha hp h)
  · exact lists_refuse _ s

theorem lists_irq (id : Word) (s : State) : Lists (.irq id) s (execIrq id s) := by
  unfold execIrq
  split
  · exact lists_refuse _ s
  · next ids hids =>
    have ha : s.active = true := by simp [State.active, hids]
    split
    · exact lists_refuse _ s
    · next hp =>
      split
      · exact lists_invokeHandler ha hp
      · split
        · exact lists_invokeHandler ha hp
        · exact lists_next (.answered 0 (by simp))

theorem lists_edgeF (ld : Bool) (s : State) : Lists (.edgeF ld) s (execEdgeF ld s) := by
  unfold execEdgeF
  split
  · exact lists_refuse _ s
  · next h => exact lists_next (.fell ld rfl (by simp_all) (by simp_all))

theorem lists_edgeR (ld : Bool) (s : State) : Lists (.edgeR ld) s (execEdgeR ld s) := by
  unfold execEdgeR
  split
  · exact lists_refuse _ s
  · next h => exact lists_next (.rose ld rfl (by simp_all) (by simp_all))

theorem lists_deliver (l : Line) (s : State) : Lists (deliverOf l) s (deliver l s) := by
  unfold deliver
  split
  · next h => exact lists_next (.delivered l rfl h)
  · exact lists_refuse _ s

theorem lists_finish (l : Line) (s : State) : Lists (finishOf l) s (finish l s) := by
  unfold finish
  split
  · next h => exact lists_next (.finished l rfl (by simp_all) (by simp_all))
  · exact lists_refuse _ s

theorem lists_wakearm (b : Bool) (s : State) : Lists (.wakearm b) s (execWakearm b s) := by
  unfold execWakearm
  split
  · next h =>
    simp only [Bool.and_eq_true, beq_iff_eq] at h
    exact lists_next (.armed b rfl h.1.1 h.1.2 h.2)
  · exact lists_refuse _ s

theorem lists_resumeNoirq (tf : Bool) (s : State) : Lists (.resumeNoirq tf) s (execResumeNoirq tf s) := by
  unfold execResumeNoirq
  split
  · next h =>
    obtain ⟨c, hc⟩ := (attached_iff s).mp ((mayMoveFrom_iff s _).mp h).1
    simp only [complete, clearWakeLatch, hc]
    exact lists_next (.resumedNoirq tf c rfl h hc)
  · exact lists_refuse _ s

theorem lists_attach (a : AttachArg) (s : State) : Lists (.attach a) s (execAttach a s) := by
  unfold execAttach setupController
  split
  · exact lists_refuse _ s
  next hs =>
  split
  · exact lists_refuse _ s
  split
  · exact lists_next (.attachedInactive a rfl (by simpa using hs))
  split
  · exact lists_refuse _ s
  next hpid =>
  dsimp only
  split
  · exact lists_next (.errored .resourceUnavailable _)
  split
  · exact lists_next (.errored .resourceUnavailable _)
  split
  · exact lists_next (.errored .resourceExhausted _)
  split
  · exact lists_next (.errored .resourceUnavailable _)
  split
  · exact lists_next (.errored .resourceUnavailable _)
  split
  · exact lists_next (.errored .resourceUnavailable _)
  · exact lists_next (.attachedActive a rfl (by simpa using hs) hpid)

/-- Whatever next state `exec` answers is of a listed form. -/
theorem exec_lists (i : Instr) (s : State) : Lists i s (exec i s) := by
  cases i with
  | decodeSt r => exact lists_decodeSetting _ (by simp) .st r s
  | decodeSd r => exact lists_decodeSetting _ (by simp) .sd r s
  | encodeSt r => exact lists_encodeSetting _ (by simp) .st r s
  | encodeSd r => exact lists_encodeSetting _ (by simp) .sd r s
  | calrdSt tf => exact lists_calibrationRead .st tf s
  | calrdSd tf => exact lists_calibrationRead .sd tf s
  | calwrSt tf req => exact lists_calibrationWrite .st tf req s
  | calwrSd tf req => exact lists_calibrationWrite .sd tf req s
  | irq id => exact lists_irq id s
  | wakearm b => exact lists_wakearm b s
  | suspend =>
    show Lists _ s (execSuspend s)
    unfold execSuspend
    split
    · next h => exact lists_next (.suspended rfl h)
    · exact lists_refuse _ s
  | irqoff =>
    show Lists _ s (execIrqoff s)
    unfold execIrqoff
    split
    · next h => exact lists_next (.irqsOff rfl h)
    · exact lists_refuse _ s
  | resumeNoirq tf => exact lists_resumeNoirq tf s
  | irqon =>
    show Lists _ s (execIrqon s)
    unfold execIrqon
    split
    · next h => exact lists_next (.irqsOn rfl h)
    · exact lists_refuse _ s
  | resume =>
    show Lists _ s (execResume s)
    unfold execResume
    split
    · next h => exact lists_next (.resumed rfl h)
    · exact lists_refuse _ s
  | shutdown =>
    show Lists _ s (execShutdown s)
    unfold execShutdown
    split
    · next h => exact lists_next (.shutDown rfl h)
    · exact lists_refuse _ s
  | gate gs a1 a2 =>
    show Lists _ s (execGate gs a1 a2 s)
    unfold execGate
    split
    · exact lists_refuse _ s
    · exact lists_next (.answered _ (by simp))
  | attach a => exact lists_attach a s
  | detach =>
    show Lists _ s (execDetach s)
    unfold execDetach
    split
    · next h => exact lists_next (.detached rfl h)
    · exact lists_refuse _ s
  | edgeF ld => exact lists_edgeF ld s
  | edgeR ld => exact lists_edgeR ld s
  | deliverP => exact lists_deliver .press s
  | deliverR => exact lists_deliver .release s
  | finishP => exact lists_finish .press s
  | finishR => exact lists_finish .release s
  | reset => exact lists_next (.reset rfl)

/-- The inversion lemma: if `exec` answers a next state, it is one of the listed forms. -/
theorem effect_of_exec {i : Instr} {s t : State} (h : exec i s = .next t) : Effect i s t :=
  exec_lists i s t h

/-! ### The step -/

theorem takeCommand_cons {s : State} {c : Command} {rest : List Command} (h : s.pending = c :: rest) :
    takeCommand s = some (c, { s with pending := rest }) := by simp [takeCommand, h]

theorem takeCommand_nil {s : State} (h : s.pending = []) : takeCommand s = none := by simp [takeCommand, h]

/-- The inversion of `step`: a command was taken, and it was illegal or an instruction that had an
effect. -/
theorem step_cases {s t : State} (h : step s = .next t) :
    ∃ c rest, s.pending = c :: rest
      ∧ ((∃ e, decode c = .error e ∧ t = reply .illegalOp 0 { s with pending := rest })
        ∨ ∃ i, decode c = .ok i ∧ exec i { s with pending := rest } = .next t) := by
  unfold step at h
  cases hp : s.pending with
  | nil => rw [takeCommand_nil hp] at h; cases h
  | cons c rest =>
    rw [takeCommand_cons hp] at h
    refine ⟨c, rest, rfl, ?_⟩
    dsimp only at h
    cases hd : decode c with
    | ok i => rw [hd] at h; exact .inr ⟨i, rfl, h⟩
    | error e =>
      rw [hd] at h
      simp only [illegalCommand, Host.Outcome.next.injEq] at h
      exact .inl ⟨e, rfl, h.symm⟩

end Sys2Proof.Machine
end

