-- ==== Sys2Proof/Laws/PerInstr.lean ====
section
/-! SUPPORT. The statements made per instruction. Family `OwnRow`: of the 26 rows of R91 exactly one, the
instruction's own, selects the `CMD` the encoder writes, and only bit 3 of it can differ from the row's
pattern. -/

/-- R91: the row of an instruction, and no other, selects its command word; the rest of the word is the
row's "CMD match", with the draw in bit 3 (R86). -/
def Sys2Proof.Laws.OwnRow.Statement (i : Sys2Proof.Instr) : Prop :=
  (∀ o : Sys2Proof.Op, o.selects (Sys2Proof.encode i).cmd = true ↔ o = i.op)
    ∧ Sys2Proof.drawBit (Sys2Proof.encode i).cmd = i.draw
    ∧ (Sys2Proof.encode i).cmd &&& 0xF7 = i.op.pattern

namespace Sys2Proof.Laws.OwnRow

theorem pattern_bits (o : Op) (d : Bool) : (o.pattern ||| byteBit d 3) &&& 0xF7 = o.pattern := by
  cases d <;> cases o <;> decide

/-- The common proof: a fact about the row and the draw, whatever the operands are. -/
theorem of_instr (i : Instr) : Statement i :=
  ⟨fun o => selects_iff o i.op i.draw (mask_of_draw i), drawBit_pattern i.op i.draw (mask_of_draw i),
    pattern_bits i.op i.draw⟩

theorem decodeSt (r : Word) : Statement (.decodeSt r) := of_instr _
theorem decodeSd (r : Word) : Statement (.decodeSd r) := of_instr _
theorem encodeSt (req : Word) : Statement (.encodeSt req) := of_instr _
theorem encodeSd (req : Word) : Statement (.encodeSd req) := of_instr _
theorem calrdSt (tf : Bool) : Statement (.calrdSt tf) := of_instr _
theorem calrdSd (tf : Bool) : Statement (.calrdSd tf) := of_instr _
theorem calwrSt (tf : Bool) (req : Word) : Statement (.calwrSt tf req) := of_instr _
theorem calwrSd (tf : Bool) (req : Word) : Statement (.calwrSd tf req) := of_instr _
theorem irq (id : Word) : Statement (.irq id) := of_instr _
theorem wakearm (b : Bool) : Statement (.wakearm b) := of_instr _
theorem suspend : Statement .suspend := of_instr _
theorem irqoff : Statement .irqoff := of_instr _
theorem resumeNoirq (tf : Bool) : Statement (.resumeNoirq tf) := of_instr _
theorem irqon : Statement .irqon := of_instr _
theorem resume : Statement .resume := of_instr _
theorem shutdown : Statement .shutdown := of_instr _
theorem gate (gs a1 a2 : Bool) : Statement (.gate gs a1 a2) := of_instr _
theorem attach (a : AttachArg) : Statement (.attach a) := of_instr _
theorem detach : Statement .detach := of_instr _
theorem edgeF (ld : Bool) : Statement (.edgeF ld) := of_instr _
theorem edgeR (ld : Bool) : Statement (.edgeR ld) := of_instr _
theorem deliverP : Statement .deliverP := of_instr _
theorem deliverR : Statement .deliverR := of_instr _
theorem finishP : Statement .finishP := of_instr _
theorem finishR : Statement .finishR := of_instr _
theorem reset : Statement .reset := of_instr _

end Sys2Proof.Laws.OwnRow
end

