-- ==== Sys2Proof/Laws/Phase.lean ====
section
/-! SUPPORT. The guard of the phase machine, what the events of the button and the interrupt subsystem
leave alone, and what the invariant says of the subscriptions. -/

namespace Sys2Proof.Machine

/-! ### The guard of R171 -/

theorem mayMoveFrom_of {s : State} {ph : Phase} (ha : s.attached = true) (hp : s.phase = ph)
    (h1 : s.inflight.press = .none) (h2 : s.inflight.release = .none) : s.mayMoveFrom ph = true := by
  rw [mayMoveFrom_iff, quiet_iff]
  exact ⟨ha, hp, h1, h2⟩

theorem not_mayMoveFrom {s : State} {ph : Phase}
    (h : s.attached = false ∨ s.phase ≠ ph ∨ s.inflight.press ≠ .none ∨ s.inflight.release ≠ .none) :
    ¬ s.mayMoveFrom ph = true := by
  rw [mayMoveFrom_iff, quiet_iff]
  rintro ⟨ha, hp, h1, h2⟩
  simp_all

theorem of_mayMoveFrom {s : State} {ph : Phase} (h : s.mayMoveFrom ph = true) :
    s.attached = true ∧ s.phase = ph ∧ s.inflight = ⟨.none, .none⟩ := by
  rw [mayMoveFrom_iff, quiet_iff] at h
  obtain ⟨ha, hp, h1, h2⟩ := h
  exact ⟨ha, hp, by cases hi : s.inflight; simp_all⟩

/-- An accepted move of the phase machine met its guard, and the next state is the move's. -/
theorem of_accepts_move {s t u : State} {i : Instr} {ph : Phase} (h : Accepts s i t)
    (hx : exec i s = if s.mayMoveFrom ph then complete 0 u else refuse s) :
    s.mayMoveFrom ph = true ∧ t = reply .ok 0 u := by
  obtain ⟨h1, h2⟩ := h
  rw [hx] at h1
  split at h1
  · next hm =>
    simp only [complete, Host.Outcome.next.injEq] at h1
    exact ⟨hm, h1.symm⟩
  · simp only [refuse, Host.Outcome.next.injEq] at h1
    subst h1
    simp [State.accepted] at h2

/-! ### What edges, deliveries and finishes leave alone -/

/-- The fields no event of the button line or the interrupt subsystem writes. -/
structure EdgeKeeps (s t : State) : Prop where
  controller : t.controller = s.controller
  irqIds : t.irqIds = s.irqIds
  wakeArmed : t.wakeArmed = s.wakeArmed
  sub : t.sub = s.sub
  phase : t.phase = s.phase
  key : t.key = s.key
  params : t.params = s.params

theorem edgeKeeps_of_exec {i : Instr} {s t : State} (h : exec i s = .next t)
    (he : isEdgeEvent i = true) : EdgeKeeps s t := by
  cases effect_of_exec h
  case fell => constructor <;> simp
  case rose => constructor <;> simp
  case delivered => constructor <;> simp
  case finished => constructor <;> simp
  case refused => exact ⟨rfl, rfl, rfl, rfl, rfl, rfl, rfl⟩
  case errored => exact ⟨rfl, rfl, rfl, rfl, rfl, rfl, rfl⟩
  case answered => exact ⟨rfl, rfl, rfl, rfl, rfl, rfl, rfl⟩
  case readFailed g hi => exact ⟨rfl, rfl, rfl, rfl, rfl, rfl, rfl⟩
  case written g req c m v hi _ _ _ _ => subst hi; cases g <;> simp [isEdgeEvent, calwrOf] at he
  all_goals simp_all [isEdgeEvent]

/-- What holds at the start of a run and is kept by every allowed step holds at its end. -/
theorem acceptedRun_keeps {allowed : Instr → Bool} {s t : State} (P : State → Prop)
    (h : AcceptedRun allowed s t) (h0 : P s)
    (hs : ∀ i t u, allowed i = true → P t → Accepts t i u → P u) : P t := by
  induction h with
  | refl => exact h0
  | snoc t u i _ ha hx ih => exact hs i t u ha ih hx

theorem edgeKeeps_of_run {s t : State} (h : EdgeRun s t) : EdgeKeeps s t := by
  refine acceptedRun_keeps (EdgeKeeps s) h ⟨rfl, rfl, rfl, rfl, rfl, rfl, rfl⟩ ?_
  intro i t u he ih hx
  have hk := edgeKeeps_of_exec hx.1 he
  exact ⟨hk.controller.trans ih.controller, hk.irqIds.trans ih.irqIds, hk.wakeArmed.trans ih.wakeArmed,
    hk.sub.trans ih.sub, hk.phase.trans ih.phase, hk.key.trans ih.key, hk.params.trans ih.params⟩

/-! ### The invariant -/

/-- The invariant reads these fields only. -/
theorem inv_congr {s t : State} (h : Inv s) (h1 : t.controller = s.controller) (h2 : t.irqIds = s.irqIds)
    (h3 : t.sub = s.sub) (h4 : t.wakeCapable = s.wakeCapable) (h5 : t.wakeArmed = s.wakeArmed)
    (h6 : t.phase = s.phase) (h7 : t.ep = s.ep) (h8 : t.capPowerKey = s.capPowerKey)
    (h9 : t.params = s.params)
    (hf : ∀ l, t.inflight.at l = .needSync → s.active = true ∧ s.phase.irqsOn = true)
    (hk : t.key.toNat < 2 ^ s.params.regw) (hs : t.stclr.toNat < 2 ^ s.params.regw) : Inv t := by
  constructor <;> simp only [State.active, State.attached, h1, h2, h3, h4, h5, h6, h7, h8, h9]
  · exact h.active_attached
  · exact h.subscribed_eq
  · exact h.capable_eq
  · exact h.armed_active
  · exact h.enabled_subscribed
  · exact h.marked_armed
  · exact h.ids_differ
  · exact h.lines_enabled
  · exact h.lines_marked
  · exact h.phase_attached
  · exact h.running
  · exact h.endpoint_eq
  · exact h.capability_eq
  · exact h.not_running
  · exact hf
  · exact hk
  · exact hs

/-- What the invariant says a line's subscription is, phase by phase. -/
theorem sub_of_inv {s : State} (h : Inv s) (l : Line) :
    s.sub.at l =
      if s.active then
        if s.phase = .run then ⟨true, true, false⟩ else ⟨true, s.wakeArmed, s.wakeArmed⟩
      else ⟨false, false, false⟩ := by
  have h1 := h.subscribed_eq l
  have h2 := h.enabled_subscribed l
  have h3 := h.marked_armed l
  rcases hs : s.sub.at l with ⟨a, b, c⟩
  simp only [hs] at h1 h2 h3
  cases ha : s.active
  · simp_all
  · by_cases hp : s.phase = .run
    · have := h.running hp ha l
      simp_all
    · have := h.not_running hp ha l
      simp_all

end Sys2Proof.Machine
end

