-- ==== Sys2Proof/Laws/Text.lean ====
section
/-! SUPPORT. The small lemmas of the text surface: what trimming leaves and takes away, the digits of a
rendered number and their value. -/

namespace Sys2Proof.Machine

theorem isSpace_iff (b : Byte) :
    isSpace b = true ↔ b ∈ [0x20#8, 0x09#8, 0x0A#8, 0x0B#8, 0x0C#8, 0x0D#8] := by
  revert b; decide

theorem isDigit_iff (b : Byte) : isDigit b = true ↔ 0x30 ≤ b.toNat ∧ b.toNat ≤ 0x39 := by
  simp [isDigit]

/-- No digit is trimmed. -/
theorem isSpace_of_isDigit {b : Byte} (h : isDigit b = true) : isSpace b = false := by
  revert b; decide

/-- Trimming takes whitespace off the two ends, and nothing else. -/
theorem trimSpaces_parts (txt : List Byte) :
    ∃ l r, txt = l ++ trimSpaces txt ++ r ∧ (∀ b ∈ l, isSpace b = true) ∧ ∀ b ∈ r, isSpace b = true := by
  refine ⟨txt.takeWhile isSpace, ((txt.dropWhile isSpace).reverse.takeWhile isSpace).reverse, ?_, ?_, ?_⟩
  · have h1 := List.takeWhile_append_dropWhile (p := isSpace) (l := (txt.dropWhile isSpace).reverse)
    have h2 := congrArg List.reverse h1
    rw [List.reverse_append, List.reverse_reverse] at h2
    rw [List.append_assoc, trimSpaces, h2, List.takeWhile_append_dropWhile]
  · intro b hb
    exact List.mem_takeWhile_imp hb
  · intro b hb
    exact List.mem_takeWhile_imp (List.mem_reverse.mp hb)

theorem dropWhile_of_all {l ds : List Byte} (h : ∀ b ∈ l, isSpace b = true) :
    (l ++ ds).dropWhile isSpace = ds.dropWhile isSpace := by
  induction l with
  | nil => rfl
  | cons b l ih =>
    rw [List.cons_append, List.dropWhile_cons, if_pos (h b (by simp)), ih fun c hc => h c (by simp [hc])]

theorem dropWhile_of_digit {d : Byte} {ds : List Byte} (h : isDigit d = true) :
    (d :: ds).dropWhile isSpace = d :: ds := by
  simp [isSpace_of_isDigit h]

/-- Digits between runs of whitespace are what trimming leaves. -/
theorem trimSpaces_digits {l ds r : List Byte} (hl : ∀ b ∈ l, isSpace b = true)
    (hr : ∀ b ∈ r, isSpace b = true) (hne : ds ≠ []) (hd : ∀ b ∈ ds, isDigit b = true) :
    trimSpaces (l ++ ds ++ r) = ds := by
  obtain ⟨d, ds', rfl⟩ := List.exists_cons_of_ne_nil hne
  have h1 : (l ++ (d :: ds') ++ r).dropWhile isSpace = d :: ds' ++ r := by
    rw [List.append_assoc, dropWhile_of_all hl, List.cons_append, dropWhile_of_digit (hd d (by simp))]
  obtain ⟨e, es, he⟩ := List.exists_cons_of_ne_nil (l := (d :: ds').reverse) (by simp)
  have h2 : isDigit e = true := by
    apply hd e
    rw [← List.mem_reverse, he]
    simp
  rw [trimSpaces, h1, List.reverse_append, dropWhile_of_all fun b hb => hr b (List.mem_reverse.mp hb), he,
    dropWhile_of_digit h2, ← he, List.reverse_reverse]

/-- One digit character. -/
theorem digit_toNat {d : Nat} (h : d < 10) : (BitVec.ofNat 8 (0x30 + d)).toNat = 0x30 + d := by
  rw [BitVec.toNat_ofNat]
  omega

theorem decimalValue_append (xs : List Byte) (y : Byte) :
    decimalValue (xs ++ [y]) = 10 * decimalValue xs + (y.toNat - 0x30) := by
  simp [decimalValue]

/-- What the renderer puts before `acc`: digits, at least one, of the right value, with no leading zero
but for zero itself. -/
theorem decimalDigits_spec (fuel v : Nat) (acc : List Byte) (h : v < 10 ^ fuel) (hf : fuel ≠ 0) :
    ∃ ds, decimalDigits fuel v acc = ds ++ acc ∧ ds ≠ [] ∧ (∀ b ∈ ds, isDigit b = true)
      ∧ decimalValue ds = v ∧ (ds.head? = some 0x30 → ds = [0x30]) := by
  induction fuel generalizing v acc with
  | zero => exact absurd rfl hf
  | succ n ih =>
    have hm : v % 10 < 10 := Nat.mod_lt _ (by decide)
    have hdig : isDigit (BitVec.ofNat 8 (0x30 + v % 10)) = true := by
      rw [isDigit_iff, digit_toNat hm]
      omega
    simp only [decimalDigits]
    by_cases hz : v / 10 = 0
    · refine ⟨[BitVec.ofNat 8 (0x30 + v % 10)], by simp [hz], by simp, by simpa using hdig, ?_, by simp⟩
      simp only [decimalValue, List.foldl_cons, List.foldl_nil, digit_toNat hm]
      omega
    · have hlt : v / 10 < 10 ^ n := by
        rw [Nat.pow_succ] at h
        omega
      have hn : n ≠ 0 := by
        rintro rfl
        simp at hlt
        omega
      obtain ⟨ds, h1, h2, h3, h4, h5⟩ := ih (v / 10) (BitVec.ofNat 8 (0x30 + v % 10) :: acc) hlt hn
      refine ⟨ds ++ [BitVec.ofNat 8 (0x30 + v % 10)], by simp [hz, h1], by simp, ?_, ?_, ?_⟩
      · intro b hb
        rcases List.mem_append.mp hb with hb | hb
        · exact h3 b hb
        · rw [List.mem_singleton.mp hb]
          exact hdig
      · rw [decimalValue_append, h4, digit_toNat hm]
        omega
      · intro hh
        rw [List.head?_append_of_ne_nil _ h2] at hh
        rw [h5 hh] at h4
        exfalso
        apply hz
        rw [← h4]
        rfl

end Sys2Proof.Machine
end

