-- ==== Sys2Proof/Tests/Slice0.lean ====
section
/-! SUPPORT. The model's own tests. Expected values come from the spec: the word of a decoding from the
opcode map R91, the result of a step from the vectors V1 to V67 and the programs P1 to P6 of spec/95.
The last part has, for each statement with hypotheses, a named witness that meets them. -/

open Sys2Proof Sys2Proof.Machine

namespace Sys2Proof.Tests

/-! ### Helpers -/

/-- What an outcome leads to. -/
def nextOf {α : Type} : Host.Outcome α Fault Refusal → Option α
  | .next t => some t
  | .fault _ | .refused _ => none

/-- The state an instruction leads to. -/
def after (i : Instr) (s : State) : Option State := nextOf (exec i s)

/-- The response of one step. -/
def response (i : Instr) (s : State) : Option Response := (after i s).map fun t => t.resp

/-- The reset state of P1: `KEY = 0xA5`, latches 0, button up, the illustrative masks and table `T2`
(the first one of the reference instantiation). -/
def detachedState : State := State.resetWith Config.reference 0xA5 0 false .high

/-- After P1 step 1. -/
def running : State :=
  { detachedState with
    controller := some ⟨.vpDefault, false, false⟩, irqIds := some ⟨7, 8⟩, wakeCapable := true,
    sub := ⟨.fresh, .fresh⟩, ep := .active, capPowerKey := true, resp := ⟨.ok, 1⟩ }

/-- After P6 step 2: attached, not active. -/
def inactive : State := { detachedState with controller := some ⟨.vpAlt, true, false⟩ }

/-- P3 after `IRQOFF`: armed and asleep, on a variant with or without the latch-clear step. -/
def asleep (latchClear : Bool) : State :=
  { running with
    controller := some ⟨.vpAlt, false, latchClear⟩, wakeArmed := true,
    sub := ⟨⟨true, true, true⟩, ⟨true, true, true⟩⟩, phase := .noirq }

/-- After V43. -/
def off : State :=
  { running with sub := ⟨⟨true, false, false⟩, ⟨true, false, false⟩⟩, phase := .off }

/-- Both latches set, in `PH_RUN`. -/
def latched : State := { running with stclr := 0x20, releaseLatch := true, btn := .low }

/-- The handler of the press in progress (P2 after step 2). -/
def inHandler : State := { running with btn := .low, sink := [.key .power true], inflight := ⟨.needSync, .none⟩ }

/-- Test tables of spec/95. -/
def t1 : Table := ⟨⟨0, 500⟩, ⟨1, 1500⟩, ⟨2, 5000⟩, ⟨3, 9000⟩⟩
def t2 : Table := ⟨⟨0, 128⟩, ⟨2, 1000⟩, ⟨3, 2000⟩, ⟨1, 3000⟩⟩
def t3 : Table := ⟨⟨0, 100⟩, ⟨0, 200⟩, ⟨1, 300⟩, ⟨1, 400⟩⟩

/-- `ATTACH` with `pid = 7`, `rid = 8` and every draw ok (V55). -/
def goodAttach : AttachArg :=
  ⟨false, 0, false, false, false, false, true, true, true, true, true, true, 7, 8⟩

/-! ### WellFormed: an ill-formed term for each check -/

theorem test_wf_accepts : t1.wf = true ∧ t2.wf = true ∧ shutdownTable.wf = true
    ∧ Config.reference.profileWf .vpDefault = true ∧ Config.reference.profileWf .vpAlt = true := by decide

theorem test_wf_refuses_repeated_index : t3.wf = false := by decide

theorem test_wf_refuses_equal_durations :
    (Table.wf ⟨⟨0, 100⟩, ⟨1, 100⟩, ⟨2, 300⟩, ⟨3, 400⟩⟩) = false := by decide

theorem test_wf_refuses_masks :
    maskWf 8 0 = false ∧ maskWf 8 0x40 = false ∧ maskWf 8 0xA0 = false ∧ maskWf 8 0x180 = false
      ∧ maskWf 8 0xC0 = true := by decide

theorem test_wf_refuses_overlapping_masks :
    Params.profileWf { Config.reference with shutdownMask := ⟨0x60, 0x03⟩, ok := by decide } .vpDefault
      = false := by decide

theorem test_wf_refuses_unknown_type : (Instr.attach { goodAttach with typeHigh := 1 }).wf = false
    ∧ (Instr.attach goodAttach).wf = true := by decide

/-- R113, D2, D4: instantiations that are refused; equal addresses are not (R55). -/
theorem test_params_refused :
    { Config.reference.toParamValues with startupMask := ⟨0, 0xC0⟩ }.admitted = false
      ∧ { Config.reference.toParamValues with regw := 31 }.admitted = false
      ∧ { Config.reference.toParamValues with regw := 1 }.admitted = false
      ∧ { Config.reference.toParamValues with pressLatchBit := 8 }.admitted = false
      ∧ { Config.reference.toParamValues with shutdownMask := ⟨0x03, 0x103⟩ }.admitted = false
      ∧ { Config.reference.toParamValues with stclrAddr := 0x36 }.admitted = true := by
  decide

/-! ### Decoding, every constructor (words from R91; `ATTACH` from R103) -/

theorem test_decode_codec :
    decode ⟨0b00010000#8, 5⟩ = .ok (.decodeSt 5) ∧ decode ⟨0b00010001#8, 0xFE⟩ = .ok (.decodeSd 0xFE)
      ∧ decode ⟨0b00100000#8, 0x9C4⟩ = .ok (.encodeSt 2500)
      ∧ decode ⟨0b00100001#8, 0x5DC⟩ = .ok (.encodeSd 1500) := by decide

theorem test_decode_calibration :
    decode ⟨0b00110000#8, 9⟩ = .ok (.calrdSt false) ∧ decode ⟨0b00111000#8, 0⟩ = .ok (.calrdSt true)
      ∧ decode ⟨0b00110001#8, 0⟩ = .ok (.calrdSd false)
      ∧ decode ⟨0b01000000#8, 0x9C4⟩ = .ok (.calwrSt false 2500)
      ∧ decode ⟨0b01001001#8, 0x2328⟩ = .ok (.calwrSd true 9000) := by decide

theorem test_decode_power :
    decode ⟨0b01100000#8, 3⟩ = .ok (.wakearm true) ∧ decode ⟨0b01100001#8, 0⟩ = .ok .suspend
      ∧ decode ⟨0b01100010#8, 0⟩ = .ok .irqoff ∧ decode ⟨0b01100011#8, 0⟩ = .ok (.resumeNoirq false)
      ∧ decode ⟨0b01101011#8, 0⟩ = .ok (.resumeNoirq true) ∧ decode ⟨0b01100100#8, 0⟩ = .ok .irqon
      ∧ decode ⟨0b01100101#8, 0⟩ = .ok .resume ∧ decode ⟨0b01100110#8, 7⟩ = .ok .shutdown := by decide

theorem test_decode_attach :
    decode ⟨0b01110000#8, 0b101⟩ = .ok (.gate true false true)
      ∧ decode ⟨0b01110001#8, 0x08073F00⟩ = .ok (.attach goodAttach)
      ∧ decode ⟨0b01110001#8, 0x0807FF21⟩
        = .ok (.attach { goodAttach with vid := true, latchClear := true })
      ∧ decode ⟨0b01110010#8, 0⟩ = .ok .detach := by decide

theorem test_decode_events :
    decode ⟨0b01010000#8, 7⟩ = .ok (.irq 7)
      ∧ decode ⟨0b10000000#8, 0⟩ = .ok (.edgeF false) ∧ decode ⟨0b10001001#8, 0⟩ = .ok (.edgeR true)
      ∧ decode ⟨0b10000010#8, 0⟩ = .ok .deliverP ∧ decode ⟨0b10000011#8, 0⟩ = .ok .deliverR
      ∧ decode ⟨0b10000100#8, 0⟩ = .ok .finishP ∧ decode ⟨0b10000101#8, 0⟩ = .ok .finishR
      ∧ decode ⟨0b11110000#8, 0⟩ = .ok .reset := by decide

/-- R93, V29: `DRW` where the row has none, a `SEL` no family lists, and the unused families. -/
theorem test_decode_reserved :
    decode ⟨0x18, 0⟩ = .error (.reservedCommand 0x18) ∧ decode ⟨0x12, 0⟩ = .error (.reservedCommand 0x12)
      ∧ decode ⟨0x00, 0⟩ = .error (.reservedCommand 0x00) ∧ decode ⟨0x8A, 0⟩ = .error (.reservedCommand 0x8A)
      ∧ decode ⟨0xF8, 0⟩ = .error (.reservedCommand 0xF8) := by decide

/-- The opcode table's numbering: `CMD` in bits 7:0, `ARG` above; bits at or above `nbits` are 0. -/
theorem test_table_words :
    decodeTableWord 40 0x08073F0071 = some (.attach goodAttach) ∧ decodeTableWord 8 0x08073F0011 = some (.decodeSd 0)
      ∧ decodeTableWord 8 0x12 = none := by decide

/-- A reserved command is one step with `ILLEGAL_OP` (V29). -/
theorem test_step_illegal :
    nextOf (step (detachedState.withFetchWord 8 0x12)) = some { detachedState with resp := ⟨.illegalOp, 0⟩ } := by
  decide

theorem test_step_runs_the_fetched_command :
    nextOf (step (State.reset.withFetchWord 40 0x0170)) = some { State.reset with resp := ⟨.ok, 1⟩ } := by
  decide

/-! ### The codec (V1 to V27) -/

theorem test_nearest_ties :
    nearest 1000 t1 = 1 ∧ nearest 5000 shutdownTable = 1 ∧ nearest 9000 shutdownTable = 3
      ∧ nearest 2500 t2 = 1 ∧ nearest 564 t2 = 2 ∧ nearest 250 t3 = 1 := by decide

theorem test_nearest_ends :
    nearest 0 shutdownTable = 0 ∧ nearest 4294967295 shutdownTable = 3 ∧ nearest 4999 shutdownTable = 0
      ∧ nearest 8000 shutdownTable = 2 ∧ nearest 200 t3 = 0 := by decide

theorem test_shiftedNearest :
    shiftedNearest 7000 0x0C shutdownTable = 0x08 ∧ shiftedNearest 9000 0x30 shutdownTable = 0x30
      ∧ shiftedNearest 2500 0xC0 t2 = 0x40 ∧ shiftedNearest 564 0xC0 t2 = 0x80 := by decide

theorem test_durationOf :
    durationOf 0xFD 0x03 shutdownTable = 6000 ∧ durationOf 0x80 0xC0 t2 = 1000
      ∧ durationOf 0x28 0x38 shutdownTable = 5 ∧ durationOf 0x02 0x03 t3 = 2
      ∧ durationOf 0x00 0x03 t3 = 100 ∧ durationOf 0xE5 0xC0 t2 = 2000 := by decide

theorem test_decodeSd : response (.decodeSd 0xFE) running = some ⟨.ok, 8000⟩ := by decide
theorem test_decodeSd_detached : response (.decodeSd 0xFE) detachedState = some ⟨.refused, 0⟩ := by decide
theorem test_decodeSt_drops_high_bits : response (.decodeSt 0x140) running = some ⟨.ok, 3000⟩ := by decide
theorem test_encodeSt : response (.encodeSt 2500) running = some ⟨.ok, 0x40⟩ := by decide
theorem test_encodeSd : response (.encodeSd 7000) running = some ⟨.ok, 0x02⟩ := by decide

/-! ### Calibration (V30 to V35c, G-V4, G-V6) -/

theorem test_calrdSd : response (.calrdSd false) running = some ⟨.ok, 6000⟩ := by decide
theorem test_calrdSt : response (.calrdSt false) running = some ⟨.ok, 1000⟩ := by decide
theorem test_calrdSt_alt : response (.calrdSt false) { inactive with key := 0x40 } = some ⟨.ok, 1000⟩ := by
  decide

/-- V34: the error value is the transport's own. -/
theorem test_calrdSt_fails : (response (.calrdSt true) running).map (fun r => r.status) = some .transportFailure := by
  decide

theorem test_calwrSd : (after (.calwrSd false 1500) running).map (fun t => (t.key, t.resp)) = some (0xA4, ⟨.ok, 0⟩) := by
  decide
theorem test_calwrSd_fails :
    (after (.calwrSd true 9000) running).map (fun t => (t.key, t.resp)) = some (0xA5, ⟨.invalidInput, 0⟩) := by
  decide
theorem test_calwrSt :
    (after (.calwrSt false 2500) { running with key := 0xA4 }).map (fun t => (t.key, t.resp))
      = some (0x64, ⟨.ok, 0x40⟩) := by decide

/-! ### Events (V36 to V39f, P2) -/

theorem test_irq_press : (after (.irq 7) running).map (fun t => t.sink) = some [.key .power true, .sync] := by decide
theorem test_irq_none :
    (after (.irq 9) running).map (fun t => (t.sink, t.resp)) = some ([], ⟨.ok, 0⟩) := by decide
theorem test_edgeF :
    (after (.edgeF false) running).map (fun t => (t.btn, t.pressLatch)) = some (.low, true) := by decide
theorem test_edgeF_twice : response (.edgeF false) { running with btn := .low } = some ⟨.refused, 0⟩ := by decide
theorem test_edgeR_disabled :
    (after (.edgeR false) { off with phase := .suspended, btn := .low }).map (fun t => (t.btn, t.releaseLatch))
      = some (.high, false) := by decide
theorem test_edgeR : (after (.edgeR false) inHandler).map (fun t => (t.btn, t.releaseLatch)) = some (.high, true) := by
  decide
theorem test_deliverP :
    (after .deliverP latched).map (fun t => (t.pressLatch, t.sink, t.inflight))
      = some (false, [.key .power true], ⟨.needSync, .none⟩) := by decide
theorem test_deliverP_no_latch : response .deliverP running = some ⟨.refused, 0⟩ := by decide
theorem test_deliverR :
    (after .deliverR { inHandler with releaseLatch := true }).map (fun t => (t.releaseLatch, t.sink))
      = some (false, [.key .power true, .key .power false]) := by decide
theorem test_finishP :
    (after .finishP inHandler).map (fun t => (t.sink, t.inflight))
      = some ([.key .power true, .sync], ⟨.none, .none⟩) := by decide
theorem test_finishR_none : response .finishR inHandler = some ⟨.refused, 0⟩ := by decide

/-! ### Power states (V39f to V43b, P3, P4) -/

theorem test_wakearm : (after (.wakearm true) running).map (fun t => t.wakeArmed) = some true := by decide
theorem test_wakearm_inactive : response (.wakearm true) inactive = some ⟨.refused, 0⟩ := by decide
theorem test_suspend :
    (after .suspend running).map (fun t => (t.sub.press, t.sub.release, t.phase))
      = some (⟨true, false, false⟩, ⟨true, false, false⟩, .suspended) := by decide
theorem test_suspend_armed :
    (after .suspend { running with wakeArmed := true }).map (fun t => (t.sub.press, t.phase))
      = some (⟨true, true, true⟩, .suspended) := by decide
theorem test_suspend_waits : response .suspend inHandler = some ⟨.refused, 0⟩ := by decide
theorem test_irqoff_in_run : response .irqoff running = some ⟨.refused, 0⟩ := by decide
theorem test_irqoff : (after .irqoff { off with phase := .suspended }).map (fun t => t.phase) = some .noirq := by decide
theorem test_resumeNoirq :
    (after (.resumeNoirq false) { asleep true with stclr := 0xFF }).map (fun t => (t.stclr, t.phase))
      = some (0xDF, .noirqResumed) := by decide
theorem test_resumeNoirq_swallows :
    (after (.resumeNoirq true) { asleep true with stclr := 0x20 }).map (fun t => (t.stclr, t.resp))
      = some (0x20, ⟨.ok, 0⟩) := by decide
theorem test_irqon : (after .irqon { asleep true with phase := .noirqResumed }).map (fun t => t.phase) = some .irqResumed := by
  decide
theorem test_resume_armed :
    (after .resume { asleep true with phase := .irqResumed }).map (fun t => (t.sub.press, t.wakeArmed, t.phase))
      = some (⟨true, true, false⟩, true, .run) := by decide
theorem test_resume :
    (after .resume { off with phase := .irqResumed }).map (fun t => (t.sub.release, t.phase))
      = some (⟨true, true, false⟩, .run) := by decide
theorem test_shutdown :
    (after .shutdown running).map (fun t => (t.sub.press, t.phase)) = some (⟨true, false, false⟩, .off) := by decide
theorem test_wakeReq :
    (after (.edgeF false) (asleep true)).map (fun t => t.wakeReq) = some true
      ∧ (asleep true).wakeReq = false := by decide

/-! ### Gate, attachment, reset (V50 to V67, P5, P6) -/

theorem test_gate :
    response (.gate false true true) detachedState = some ⟨.ok, 1⟩
      ∧ response (.gate true false false) detachedState = some ⟨.ok, 1⟩
      ∧ response (.gate true false true) detachedState = some ⟨.ok, 0⟩ := by decide

/-- V55. -/
theorem test_attach : after (.attach goodAttach) detachedState = some running := by decide

/-- V56, V57, V59 to V62, V65 to V67: which step fails, and what `RES` carries. -/
theorem test_attach_fails :
    response (.attach (AttachArg.ofArg 0x08073E00)) detachedState = some ⟨.resourceUnavailable, 0x11⟩
      ∧ response (.attach (AttachArg.ofArg 0x08073D00)) detachedState = some ⟨.resourceUnavailable, 0x01⟩
      ∧ response (.attach (AttachArg.ofArg 0x08073B00)) detachedState = some ⟨.resourceExhausted, 0⟩
      ∧ response (.attach (AttachArg.ofArg 0x08073700)) detachedState = some ⟨.resourceUnavailable, 0x12⟩
      ∧ response (.attach (AttachArg.ofArg 0x08072F00)) detachedState = some ⟨.resourceUnavailable, 0x02⟩
      ∧ response (.attach (AttachArg.ofArg 0x08071F00)) detachedState = some ⟨.resourceUnavailable, 0x03⟩
      ∧ response (.attach (AttachArg.ofArg 0x08073F02)) detachedState = some ⟨.refused, 0⟩
      ∧ response (.attach (AttachArg.ofArg 0x07073F00)) detachedState = some ⟨.refused, 0⟩
      ∧ response (.attach goodAttach) running = some ⟨.refused, 0⟩ := by decide

theorem test_detach : after .detach { running with resp := ⟨.ok, 0⟩ } = some detachedState := by decide
theorem test_detach_waits : response .detach inHandler = some ⟨.refused, 0⟩ := by decide

/-- V43: `RESET` is accepted in `PH_OFF`; what it draws is not looked at. -/
theorem test_reset :
    (after .reset off).map (fun t => (t.phase, t.attached, t.sink, t.resp)) = some (.run, false, [], ⟨.ok, 0⟩) := by
  decide

/-! ### Text and assembler (V36t to V44t, R96) -/

theorem test_parseMs :
    parseMs (asciiBytes " 1500\n") = some 1500 ∧ parseMs (asciiBytes "007") = some 7
      ∧ parseMs (asciiBytes "4294967295") = some 4294967295 ∧ parseMs (asciiBytes "4294967296") = none
      ∧ parseMs (asciiBytes "\n") = none ∧ parseMs (asciiBytes "+1") = none ∧ parseMs (asciiBytes "1 2") = none := by
  decide

theorem test_renderMs : renderMs 4000 = asciiBytes "4000\n" ∧ renderMs 0 = asciiBytes "0\n"
    ∧ renderMs 4294967295 = asciiBytes "4294967295\n" := by decide

/-- S2: writing "1500" to `shutdown`. -/
theorem test_writeEndpoint :
    (nextOf (writeEndpoint .sd false (asciiBytes "1500") running)).map (fun r => (r.1, r.2.key))
      = some (.consumed 4, 0xA4) := by decide

theorem test_readEndpoint :
    (nextOf (readEndpoint .sd false { running with key := 0xA4 })).map (fun r => r.1)
      = some (.text (asciiBytes "4000\n")) := by decide

theorem test_assemble :
    assemble (asciiBytes "CALWR.SD 1500") = some ⟨0x41, 0x5DC⟩ ∧ assemble (asciiBytes "CALRD.ST !") = some ⟨0x38, 0⟩
      ∧ assemble (asciiBytes "ATTACH VID=1 latch_clear=1 pid=7 rid=8") = some ⟨0x71, 0x08073F21⟩
      ∧ assemble (asciiBytes "DECODE.SD 0xFE") = some ⟨0x11, 0xFE⟩ := by decide

/-! ### Witnesses: states and operands that meet the hypotheses of each statement -/

/-- The next state of an instruction, for use where it is known to have one. -/
def go (i : Instr) (s : State) : State := (after i s).getD s

/-- A state with one command to come. -/
def withCommand (cmd : Byte) (arg : Word) (s : State) : State := { s with pending := [⟨cmd, arg⟩] }

theorem inv_detached : Inv detachedState := by
  constructor <;> first
    | decide
    | (intro l; cases l <;> decide)
    | (intro ids h; cases h)

theorem inv_running : Inv running := by
  constructor <;> first
    | decide
    | (intro l; cases l <;> decide)
    | (intro ids h; cases h; decide)
    | (intro h h' l; revert h h'; cases l <;> decide)

theorem inv_off : Inv off := by
  constructor <;> first
    | decide
    | (intro l; cases l <;> decide)
    | (intro ids h; cases h; decide)
    | (intro h h' l; revert h h'; cases l <;> decide)

theorem inv_asleep (latchClear : Bool) : Inv (asleep latchClear) := by
  cases latchClear <;> constructor <;> first
    | decide
    | (intro l; cases l <;> decide)
    | (intro ids h; cases h; decide)
    | (intro h h' l; revert h h'; cases l <;> decide)

/-- With bits of `ARG` that are ignored set. -/
theorem witness_DecodedCommandsReencode :
    decode ⟨0x39, 5⟩ = .ok (.calrdSd true) ∧ decode ⟨0x60, 2⟩ = .ok (.wakearm false)
      ∧ decode ⟨0x71, 0x0807FF00⟩ = .ok (.attach goodAttach) := by decide

theorem witness_ReservedCommandsAnswerIllegalOp :
    (withCommand 0x18 0 running).pending = [⟨0x18, 0⟩] ∧ (∀ row ∈ opcodeMap, 0x18#8 &&& row.2 ≠ row.1)
      ∧ (withCommand 0xF0 0 running).pending = [⟨0xF0, 0⟩] ∧ ∃ row ∈ opcodeMap, 0xF0#8 &&& row.2 = row.1 :=
  ⟨rfl, by simp [opcodeMap], rfl, (0xF0, 0xFF), by simp [opcodeMap], by decide⟩

theorem witness_StepRunsTheDecodedInstruction :
    (withCommand 0x50 7 running).pending = [⟨0x50, 7⟩] ∧ decode ⟨0x50, 7⟩ = .ok (.irq 7)
      ∧ running.pending = [] := by decide

theorem witness_TurnedAwayStepsChangeNothing :
    step (withCommand 0x62 0 running) = .next { running with resp := ⟨.refused, 0⟩ }
      ∧ ({ running with resp := ⟨.refused, 0⟩ } : State).accepted = false := ⟨rfl, rfl⟩

theorem witness_ErrorsChangeNothing :
    (∃ t, exec (.calwrSt true 0) running = .next t ∧ t.resp.status = .invalidInput)
      ∧ (∃ t, exec (.calrdSd true) running = .next t ∧ t.resp.status = .transportFailure)
      ∧ (∃ t, exec (.attach { goodAttach with allocOk := false }) detachedState = .next t
          ∧ t.resp.status = .resourceExhausted)
      ∧ ∃ t, exec (.attach { goodAttach with actOk := false }) detachedState = .next t
          ∧ t.resp.status = .resourceUnavailable :=
  ⟨⟨_, rfl, rfl⟩, ⟨_, rfl, rfl⟩, ⟨_, rfl, rfl⟩, ⟨_, rfl, rfl⟩⟩

/-- For the four operations that need a profile: `DecodeOperation`, `EncodeOperation`,
`CalibrationReadOperation`, `CalibrationWriteOperation`. -/
theorem witness_profile_operations :
    detachedState.attached = false ∧ off.phase = .off
      ∧ running.controller = some ⟨.vpDefault, false, false⟩ ∧ running.phase ≠ .off
      ∧ inactive.controller = some ⟨.vpAlt, true, false⟩ ∧ inactive.phase ≠ .off := by decide


/-- An index of the table, a value above every index, and bits outside the mask. -/
theorem witness_DecodeLooksUpTheField :
    IsLowestBit 0x38 3 ∧ (shutdownTable.at 3).index.setWidth 32 = (0x18#32 &&& 0x38#32) >>> 3
      ∧ (∀ q : Fin 4, q ≠ 3 → (shutdownTable.at q).index ≠ (shutdownTable.at 3).index)
      ∧ (∀ p : Fin 4, (shutdownTable.at p).index.setWidth 32 ≠ (0x20#32 &&& 0x38#32) >>> 3)
      ∧ 0xC7#32 &&& 0x38#32 = 0x00#32 &&& 0x38#32 := by
  unfold IsLowestBit
  decide

theorem witness_DecodeTakesTheLowestPositionOfADuplicate :
    IsLowestBit 0x03 0 ∧ (2 : Fin 4) < 3 ∧ (t3.at 2).index = (t3.at 3).index
      ∧ (t3.at 2).index.setWidth 32 = (0x01#32 &&& 0x03#32) >>> 0
      ∧ ∀ u : Fin 4, u < 2 → (t3.at u).index ≠ (t3.at 2).index := by
  unfold IsLowestBit
  decide

theorem witness_FallbackNeverFiresOnTwoBitFields :
    (8 ≤ 30) ∧ t2.wf = true ∧ maskWf 8 0xC0 = true ∧ maskWidth 0xC0 = 2 := by decide

theorem witness_EncodeShiftsTheNearestIndex : IsLowestBit 0xC0 6 := by
  unfold IsLowestBit
  decide

/-- The requests on both sides of each threshold of R126. -/
theorem witness_NearestThresholdsAreRoundedUpMidpoints :
    shutdownTable.wf = true ∧ 2 * (4999#32).toNat < 4000 + 6000 ∧ 4000 + 6000 ≤ 2 * (5000#32).toNat
      ∧ 2 * (6999#32).toNat < 6000 + 8000 ∧ 6000 + 8000 ≤ 2 * (7000#32).toNat
      ∧ 2 * (8999#32).toNat < 8000 + 10000 ∧ 8000 + 10000 ≤ 2 * (9000#32).toNat := by decide

theorem witness_TableEntriesRoundTrip :
    (8 ≤ 30) ∧ t2.wf = true ∧ maskWf 8 0xC0 = true ∧ 0x25#32 &&& 0xC0#32 = 0 := by decide

/-- For `CalibrationWriteThenRead`, `LastWriterOfASettingWins` and `WritesOfTheTwoSettingsCommute`. -/
theorem witness_CalibrationWriteThenRead :
    running.controller = some ⟨.vpDefault, false, false⟩ ∧ running.phase ≠ .off
      ∧ running.params.profileWf .vpDefault = true := by decide


theorem witness_RegistersChangeOnlyWhereTheRulesWrite :
    exec (.calwrSd false 1500) running = .next (go (.calwrSd false 1500) running)
      ∧ memRead .key false (go (.calwrSd false 1500) running) ≠ memRead .key false running
      ∧ calwrOf false 1500 .sd = .calwrSd false 1500
      ∧ running.controller = some ⟨.vpDefault, false, false⟩
      ∧ (running.params.mask .vpDefault .sd).getLsbD 2 = false
      ∧ exec (.edgeF false) running = .next (go (.edgeF false) running)
      ∧ memRead .stclr false (go (.edgeF false) running) ≠ memRead .stclr false running
      ∧ Instr.edgeF false ≠ .reset ∧ 4 ≠ running.params.pressLatchBit :=
  ⟨rfl, by decide, rfl, rfl, by decide, rfl, by decide, by decide, by decide⟩

theorem witness_IrqRunsTheHandler :
    inactive.active = false ∧ off.phase = .off ∧ inHandler.irqIds = some ⟨7, 8⟩ ∧ inHandler.phase ≠ .off
      ∧ inHandler.inflight.press ≠ .none ∧ inHandler.inflight.release = .none
      ∧ running.irqIds = some ⟨7, 8⟩ ∧ running.inflight.press = .none := by decide

theorem witness_FallingEdgeOperation :
    off.phase = .off ∧ inHandler.btn ≠ .high ∧ running.phase ≠ .off ∧ running.btn = .high := by decide

theorem witness_RisingEdgeOperation :
    off.phase = .off ∧ running.btn ≠ .low ∧ inHandler.phase ≠ .off ∧ inHandler.btn = .low := by decide

theorem witness_DeliverOperation :
    latched.active = true ∧ latched.sub.press.subscribed = true ∧ latched.sub.press.enabled = true
      ∧ latched.pressLatch = true ∧ latched.inflight.press = .none
      ∧ latched.sub.release.subscribed = true ∧ latched.sub.release.enabled = true
      ∧ latched.releaseLatch = true ∧ latched.inflight.release = .none
      ∧ latched.phase ∈ [Phase.run, .suspended, .irqResumed]
      ∧ running.latch .press = false ∧ (asleep true).phase ∉ [Phase.run, .suspended, .irqResumed] := by
  decide

theorem witness_FinishOperation :
    inHandler.inflight.press = .needSync ∧ inHandler.phase ≠ .off
      ∧ { inHandler with inflight := ⟨.none, .needSync⟩ }.inflight.release = .needSync
      ∧ inHandler.inflight.at .release ≠ .needSync ∧ off.phase = .off := by decide

theorem witness_DeliverThenFinishIsIrqAndLatchClear :
    latched.irqIds = some ⟨7, 8⟩ ∧ (7#32) ≠ 8#32 ∧ latched.deliverable .press = true
      ∧ latched.deliverable .release = true := by decide

theorem witness_StepKeepsTheSinkBalanced :
    SinkBalanced (withCommand 0x82 0 latched)
      ∧ step (withCommand 0x82 0 latched) = .next (go .deliverP latched) := ⟨rfl, rfl⟩

theorem witness_OnlyTheHandlerWritesTheSink :
    exec .deliverP latched = .next (go .deliverP latched) ∧ (go .deliverP latched).sink = latched.sink ++ [.key .power true]
      ∧ Instr.deliverP ≠ .reset := ⟨rfl, by decide, by decide⟩

theorem witness_WakearmOperation :
    inactive.active = false ∧ off.phase ≠ .run ∧ running.active = true ∧ running.wakeCapable = true
      ∧ running.phase = .run := by decide

/-- The guard of the moves from `PH_RUN`, met and not met: `SuspendOperation`, `ShutdownOperation`,
`DetachOperation`. -/
theorem witness_moves_from_run :
    detachedState.attached = false ∧ off.phase ≠ .run ∧ inHandler.inflight.press ≠ .none
      ∧ running.attached = true ∧ running.phase = .run ∧ running.inflight.press = .none
      ∧ running.inflight.release = .none := by decide


/-- The guards of the other moves, met and not met: `IrqoffOperation`, `ResumeNoirqOperation`,
`IrqonOperation`, `ResumeOperation`. -/
theorem witness_other_moves :
    detachedState.attached = false ∧ running.phase ≠ .suspended ∧ running.phase ≠ .noirq
      ∧ { inHandler with phase := .noirq }.inflight.press ≠ .none
      ∧ running.phase ≠ .noirqResumed ∧ running.phase ≠ .irqResumed
      ∧ (asleep true).attached = true ∧ (asleep true).controller = some ⟨.vpAlt, false, true⟩
      ∧ (asleep true).phase = .noirq ∧ (asleep true).inflight.press = .none
      ∧ (asleep true).inflight.release = .none
      ∧ { asleep true with phase := .suspended }.phase = .suspended
      ∧ { asleep true with phase := .noirqResumed }.phase = .noirqResumed
      ∧ { asleep true with phase := .irqResumed }.phase = .irqResumed := by decide


theorem witness_PhaseMovesOnlyByTheTable :
    exec .suspend running = .next (go .suspend running) ∧ (go .suspend running).phase ≠ running.phase
      ∧ Instr.suspend ≠ .reset := ⟨rfl, by decide, by decide⟩

theorem witness_PoweredOffRefusesAllButReset : Inv off ∧ off.phase = .off ∧ Instr.gate false false false ≠ .reset :=
  ⟨inv_off, rfl, by decide⟩

/-- P3: the run of R183 with an edge of the button while asleep. -/
theorem witness_SuspendThenResumeRestoresSubscriptions :
    ∃ a b c c' d t, Inv running ∧ running.active = true ∧ Accepts running .suspend a ∧ EdgeRun a a
      ∧ Accepts a .irqoff b ∧ EdgeRun b b ∧ Accepts b (.resumeNoirq false) c ∧ EdgeRun c c'
      ∧ exec (.edgeF true) c = .next c' ∧ Accepts c' .irqon d ∧ EdgeRun d d ∧ Accepts d .resume t :=
  ⟨_, _, _, _, _, _, inv_running, rfl, ⟨rfl, rfl⟩, .refl, ⟨rfl, rfl⟩, .refl, ⟨rfl, rfl⟩,
    .snoc _ _ (.edgeF true) .refl rfl ⟨rfl, rfl⟩, rfl, ⟨rfl, rfl⟩, .refl, ⟨rfl, rfl⟩⟩

theorem witness_WakePressIsReplayedOnlyWithoutLatchClear (latchClear : Bool) :
    Inv (asleep latchClear) ∧ (asleep latchClear).controller = some ⟨.vpAlt, false, latchClear⟩
      ∧ (asleep latchClear).wakeArmed = true ∧ (asleep latchClear).phase = .noirq
      ∧ (asleep latchClear).btn = .high := ⟨inv_asleep latchClear, rfl, rfl, rfl, rfl⟩

theorem inv_asleep_latched : Inv { asleep true with releaseLatch := true } := by
  constructor <;> first
    | decide
    | (intro l; cases l <;> decide)
    | (intro ids h; cases h; decide)
    | (intro h h' l; revert h h'; cases l <;> decide)

theorem witness_WakeRequestNeedsArming :
    Inv { asleep true with releaseLatch := true } ∧ { asleep true with releaseLatch := true }.wakeReq = true :=
  ⟨inv_asleep_latched, rfl⟩

/-- P4 up to step 5, where the interrupts are on again, with a latched press; and a state asleep. -/
theorem witness_UnarmedSuspendSilencesBothLines :
    (∃ a b, running.active = true ∧ running.wakeArmed = false ∧ Accepts running .suspend a
        ∧ RunBeforeResume a b ∧ b.phase = .irqResumed ∧ b.latch .press = true)
      ∧ Inv off ∧ off.active = true ∧ off.wakeArmed = false ∧ off.phase ≠ .run :=
  ⟨⟨_, _, rfl, rfl, ⟨rfl, rfl⟩,
      .snoc _ _ .irqon
        (.snoc _ _ (.resumeNoirq false)
          (.snoc _ _ (.edgeF true) (.snoc _ _ .irqoff .refl rfl ⟨rfl, rfl⟩) rfl ⟨rfl, rfl⟩)
          rfl ⟨rfl, rfl⟩)
        rfl ⟨rfl, rfl⟩,
      rfl, by decide⟩,
    inv_off, rfl, rfl, by decide⟩

theorem witness_OnlyWakearmArms :
    exec (.wakearm true) running = .next (go (.wakearm true) running)
      ∧ (go (.wakearm true) running).wakeArmed ≠ running.wakeArmed
      ∧ exec .detach { running with wakeArmed := true } = .next (go .detach { running with wakeArmed := true })
      ∧ (go .detach { running with wakeArmed := true }).wakeArmed ≠ true :=
  ⟨rfl, by decide, rfl, by decide⟩

theorem witness_GateOperation : off.phase = .off ∧ inactive.phase ≠ .off := by decide

theorem witness_AttachOperation :
    running.attached = true ∧ (2#3) ≠ 0 ∧ detachedState.attached = false ∧ goodAttach.typeHigh = 0
      ∧ (goodAttach.gateSpecial && (goodAttach.fwAlt1 || goodAttach.fwAlt2)) = false
      ∧ ({ goodAttach with gateSpecial := true, fwAlt2 := true }.gateSpecial
          && ({ goodAttach with gateSpecial := true, fwAlt2 := true }.fwAlt1
            || { goodAttach with gateSpecial := true, fwAlt2 := true }.fwAlt2)) = true := by decide

theorem witness_AttachIsAllOrNothing :
    (∃ t, exec (.attach { goodAttach with resPressOk := false }) detachedState = .next t ∧ t.resp.status ≠ .ok)
      ∧ (∃ t, exec (.attach goodAttach) detachedState = .next t ∧ t.resp.status = .ok ∧ t.active = true)
      ∧ ∃ t, exec (.attach { goodAttach with gateSpecial := true, fwAlt1 := true }) detachedState = .next t
          ∧ t.resp.status = .ok ∧ t.active = false :=
  ⟨⟨_, rfl, by decide⟩, ⟨_, rfl, rfl, rfl⟩, ⟨_, rfl, rfl, rfl⟩⟩

theorem witness_DeviceIsHeldForItsLifetime :
    exec .suspend running = .next (go .suspend running)
      ∧ running.controller = some ⟨.vpDefault, false, false⟩ ∧ Instr.suspend ≠ .detach ∧ Instr.suspend ≠ .reset :=
  ⟨rfl, rfl, by decide, by decide⟩

theorem witness_ResetStatesMeetTheInvariants :
    (0xFF#32).toNat < 2 ^ Config.reference.regw ∧ (0#32).toNat < 2 ^ Config.reference.regw := by decide

theorem witness_StepKeepsTheInvariant :
    Inv (withCommand 0x61 0 running) ∧ step (withCommand 0x61 0 running) = .next (go .suspend running) :=
  ⟨⟨inv_running.active_attached, inv_running.subscribed_eq, inv_running.capable_eq, inv_running.armed_active,
    inv_running.enabled_subscribed, inv_running.marked_armed, inv_running.ids_differ, inv_running.lines_enabled,
    inv_running.lines_marked, inv_running.phase_attached, inv_running.running, inv_running.endpoint_eq,
    inv_running.capability_eq, inv_running.not_running, inv_running.inflight_active, inv_running.key_width,
    inv_running.stclr_width⟩, rfl⟩

theorem witness_NoStepChangesTheParameters :
    step (withCommand 0xF0 0 off) = .next (go .reset off) := rfl

theorem witness_TextEndpointsExpandToCalibration :
    exec (calrdOf false .sd) running = .next (go (.calrdSd false) running)
      ∧ parseMs (asciiBytes "-1") = none ∧ parseMs (asciiBytes "1500\n") = some 1500
      ∧ exec (calwrOf false 1500 .sd) running = .next (go (.calwrSd false 1500) running) :=
  ⟨rfl, by decide, by decide, rfl⟩

end Sys2Proof.Tests
end

section
/-! PROOFS. What every step is (R12): the step as `exec` of the decoded command, that every
instruction answers a next state, and that a step turned away changes nothing. -/

namespace Sys2Proof.Machine

/-! ### Every instruction answers (R57) -/

/-- The outcome is a next state: no fault, and no refusal by the model. -/
def Answers (o : StepOutcome) : Prop := ∃ t, o = .next t

theorem answers_complete (res : Word) (s : State) : Answers (complete res s) := ⟨_, rfl⟩
theorem answers_refuse (s : State) : Answers (refuse s) := ⟨_, rfl⟩
theorem answers_raise (e : ErrorKind) (info : Word) (s : State) : Answers (raise e info s) := ⟨_, rfl⟩

theorem answers_ite {p : Prop} [Decidable p] {a b : StepOutcome} (ha : Answers a) (hb : Answers b) :
    Answers (if p then a else b) := by
  split
  · exact ha
  · exact hb

/-- The shape most operations have: a guard, then one completed answer. -/
theorem answers_guarded (p : Prop) [Decidable p] (res : Word) (s t : State) :
    Answers (if p then complete res t else refuse s) :=
  answers_ite (answers_complete res t) (answers_refuse s)

theorem answers_withController (s : State) {body : Controller → StepOutcome} (h : ∀ c, Answers (body c)) :
    Answers (withController s body) := by
  obtain hr | ⟨c, -, -, hr⟩ := withController_cases s body <;> rw [hr]
  · exact answers_refuse s
  · exact h c

theorem answers_decodeSetting (g : Setting) (r : Word) (s : State) : Answers (decodeSetting g r s) :=
  answers_withController s fun _ => answers_complete _ s

theorem answers_encodeSetting (g : Setting) (req : Word) (s : State) : Answers (encodeSetting g req s) :=
  answers_withController s fun _ => answers_complete _ s

theorem answers_calibrationRead (g : Setting) (tf : Bool) (s : State) : Answers (calibrationRead g tf s) :=
  answers_withController s fun _ => by
    cases tf with
    | false => exact answers_complete _ s
    | true => exact answers_raise _ _ _

theorem answers_calibrationWrite (g : Setting) (tf : Bool) (req : Word) (s : State) :
    Answers (calibrationWrite g tf req s) :=
  answers_withController s fun _ => by
    cases tf with
    | false => exact answers_complete _ _
    | true => exact answers_raise _ _ s

theorem answers_execIrq (id : Word) (s : State) : Answers (execIrq id s) := by
  have handler (l : Line) : Answers (invokeHandler l s) := answers_guarded _ _ _ _
  unfold execIrq
  cases s.irqIds with
  | none => exact answers_refuse s
  | some ids =>
    exact answers_ite (answers_refuse s)
      (answers_ite (handler .press) (answers_ite (handler .release) (answers_complete 0 s)))

theorem answers_setupController (a : AttachArg) (s : State) : Answers (setupController a s) :=
  answers_ite (answers_raise _ _ s) <| answers_ite (answers_raise _ _ s) <|
    answers_ite (answers_raise _ _ s) <| answers_ite (answers_raise _ _ s) <|
    answers_ite (answers_raise _ _ s) <| answers_ite (answers_raise _ _ s) <| answers_complete 1 _

theorem answers_execAttach (a : AttachArg) (s : State) : Answers (execAttach a s) :=
  answers_ite (answers_refuse s) <| answers_ite (answers_refuse s) <|
    answers_ite (answers_complete 0 _) <| answers_ite (answers_refuse s) (answers_setupController a s)

theorem answers_exec (i : Instr) (s : State) : Answers (exec i s) := by
  cases i with
  | decodeSt r => exact answers_decodeSetting .st r s
  | decodeSd r => exact answers_decodeSetting .sd r s
  | encodeSt req => exact answers_encodeSetting .st req s
  | encodeSd req => exact answers_encodeSetting .sd req s
  | calrdSt tf => exact answers_calibrationRead .st tf s
  | calrdSd tf => exact answers_calibrationRead .sd tf s
  | calwrSt tf req => exact answers_calibrationWrite .st tf req s
  | calwrSd tf req => exact answers_calibrationWrite .sd tf req s
  | irq id => exact answers_execIrq id s
  | attach a => exact answers_execAttach a s
  | gate gs a1 a2 => exact answers_ite (answers_refuse s) (answers_complete _ s)
  | edgeF ld => exact answers_ite (answers_refuse s) (answers_complete 0 _)
  | edgeR ld => exact answers_ite (answers_refuse s) (answers_complete 0 _)
  | wakearm | suspend | irqoff | resumeNoirq | irqon | resume | shutdown | detach | deliverP | deliverR
  | finishP | finishR => exact answers_guarded _ _ _ _
  | reset => exact answers_complete 0 _

/-- Settles O6: operation by operation, every branch ends in an answer on the port. -/
theorem everyInstructionAnswersANextState : Obligations.EveryInstructionAnswersANextState :=
  answers_exec

/-! ### Steps turned away (R12) -/

@[simp] theorem accepted_reply (st : Status) (res : Word) (s : State) :
    (reply st res s).accepted = (st != .refused && st != .illegalOp) := rfl

/-- Of the forms a next state can have, only the refusal is not accepted. -/
theorem eq_refused_of_effect {i : Instr} {s t : State} (h : Effect i s t) (ht : t.accepted = false) :
    t = reply .refused 0 s := by
  cases h with
  | refused => rfl
  | errored e info => cases e <;> cases ht
  | _ => cases ht

/-- Settles O7: a reserved command answers `ILLEGAL_OP` at once, and of the effects of an instruction
only the refusal is turned away. -/
theorem turnedAwayStepsChangeNothing : Obligations.TurnedAwayStepsChangeNothing := by
  intro s t c rest hp hstep ht
  obtain ⟨c', rest', hp', hcases⟩ := step_cases hstep
  obtain ⟨-, rfl⟩ := List.cons.inj (hp.symm.trans hp')
  obtain ⟨e, -, rfl⟩ | ⟨i, -, hx⟩ := hcases
  · rfl
  · rw [eq_refused_of_effect (effect_of_exec hx) ht]
    rfl

/-! ### The step and the decoder (R12, R64) -/

theorem step_of_decode {s : State} {c : Command} {rest : List Command} {i : Instr}
    (hp : s.pending = c :: rest) (hd : decode c = .ok i) : step s = exec i { s with pending := rest } := by
  simp only [step, takeCommand_cons hp, hd]

theorem step_of_no_command {s : State} (hp : s.pending = []) : step s = .refused .noCommand := by
  simp only [step, takeCommand_nil hp]

/-- Settles O5: the two branches of `step` that take a decodable command or find none. -/
theorem stepRunsTheDecodedInstruction : Obligations.StepRunsTheDecodedInstruction :=
  ⟨fun _ _ _ _ => step_of_decode, fun _ => step_of_no_command⟩

end Sys2Proof.Machine
end

section
/-! PROOFS. The invariant of R34 and R39: the reset states meet it (R41, R260), each update of the state
keeps it where its guard holds, and so every step keeps it. -/

namespace Sys2Proof.Machine

/-! ### The subscriptions the invariant allows -/

/-- The subscription of either line as the invariant fixes it: fresh while the host runs (R208), enabled
and marked exactly when armed while it does not (R174), absent without an active controller (R41). -/
def subInPhase (active armed : Bool) (ph : Phase) : Sub :=
  if active then if ph = .run then .fresh else ⟨true, armed, armed⟩ else .absent

@[simp] theorem subInPhase_subscribed (active armed : Bool) (ph : Phase) :
    (subInPhase active armed ph).subscribed = active := by
  unfold subInPhase; split <;> [split; skip] <;> simp_all [Sub.fresh, Sub.absent]

@[simp] theorem subInPhase_enabled (active armed : Bool) (ph : Phase) :
    (subInPhase active armed ph).enabled = (active && (ph == .run || armed)) := by
  unfold subInPhase; split <;> [split; skip] <;> simp_all [Sub.fresh, Sub.absent]

@[simp] theorem subInPhase_wakeMarked (active armed : Bool) (ph : Phase) :
    (subInPhase active armed ph).wakeMarked = (active && (ph != .run && armed)) := by
  unfold subInPhase; split <;> [split; skip] <;> simp_all [Sub.fresh, Sub.absent]

/-- Outside `PH_RUN` the phase does not matter. -/
theorem subInPhase_not_running (active armed : Bool) {ph ph' : Phase} (hp : ph ≠ .run) (hp' : ph' ≠ .run) :
    subInPhase active armed ph = subInPhase active armed ph' := by
  simp only [subInPhase, hp, hp', if_false]

theorem sub_at_of_inv {s : State} (h : Inv s) (l : Line) :
    s.sub.at l = subInPhase s.active s.wakeArmed s.phase := sub_of_inv h l

/-- Converse of `sub_at_of_inv`: the seven clauses about subscriptions follow from their one value. -/
theorem inv_of_sub {s : State} (attached : s.active = true → s.attached = true)
    (capable : s.wakeCapable = s.active) (armed : s.wakeArmed = true → s.active = true)
    (ids : ∀ ids, s.irqIds = some ids → ids.press ≠ ids.release)
    (phase : s.phase ≠ .run → s.attached = true)
    (sub : ∀ l, s.sub.at l = subInPhase s.active s.wakeArmed s.phase)
    (endpoint : s.ep = if s.active then .active else .none) (capability : s.capPowerKey = s.active)
    (inflight : ∀ l, s.inflight.at l = .needSync → s.active = true ∧ s.phase.irqsOn = true)
    (key : s.key.toNat < 2 ^ s.params.regw) (stclr : s.stclr.toNat < 2 ^ s.params.regw) : Inv s where
  active_attached := attached
  capable_eq := capable
  armed_active := armed
  ids_differ := ids
  phase_attached := phase
  endpoint_eq := endpoint
  capability_eq := capability
  inflight_active := inflight
  key_width := key
  stclr_width := stclr
  subscribed_eq l := by simp [sub l]
  enabled_subscribed l := by simp +contextual [sub l]
  marked_armed l := by simp +contextual [sub l]
  lines_enabled := congrArg Sub.enabled ((sub .press).trans (sub .release).symm)
  lines_marked := congrArg Sub.wakeMarked ((sub .press).trans (sub .release).symm)
  running hp ha l := by simp [sub l, hp, ha]
  not_running hp ha l := by simp [sub l, hp, ha]

/-! ### The updates that leave the controller alone -/

theorem inv_pending {s : State} (h : Inv s) (rest : List Command) : Inv { s with pending := rest } :=
  { h with }

theorem inv_btn {s : State} (h : Inv s) (b : Level) : Inv { s with btn := b } := { h with }

theorem inv_reply {s : State} (h : Inv s) (st : Status) (res : Word) : Inv (reply st res s) := { h with }

theorem inv_drawn {s : State} (h : Inv s) : Inv (drawn s) := { h with }

theorem inv_emit {s : State} (h : Inv s) (e : Event) : Inv (emit e s) := { h with }

/-- An update of `KEY` under a profile's mask stays within `REGW` bits (R110). -/
theorem inv_updatedKey {s : State} (h : Inv s) (prof : Profile) (g : Setting) (v : Word) :
    Inv { s with key := updatedBits s.key (s.params.mask prof g) v } :=
  { h with key_width := updatedBits_lt h.key_width (mask_lt s.params prof g) }

/-- The press latch is a bit of `STCLR` (R6). -/
theorem inv_setPressLatch {s : State} (h : Inv s) (b : Bool) : Inv (setPressLatch b s) :=
  { h with stclr_width := withBit_lt b h.stclr_width (pressLatchBit_lt_regw _) (pressLatchBit_lt _) }

theorem inv_setLatch {s : State} (h : Inv s) (l : Line) (b : Bool) : Inv (setLatch l b s) := by
  cases l with
  | press => exact inv_setPressLatch h b
  | release => exact { h with }

theorem inv_latchEdge {s : State} (h : Inv s) (l : Line) (ld : Bool) : Inv (latchEdge l ld s) := by
  unfold latchEdge
  split
  · exact inv_setLatch h l true
  · split
    · exact inv_setLatch h l true
    · exact h

/-- A handler may come to be in progress only on an active controller with the interrupts on (R158). -/
theorem inv_setInflight {s : State} (h : Inv s) (l : Line) (f : Inflight)
    (hf : f = .needSync → s.active = true ∧ s.phase.irqsOn = true) : Inv (setInflight l f s) :=
  { h with
    inflight_active := fun l' hl' => by
      rw [setInflight_inflight, at_set] at hl'
      split at hl'
      · exact hf hl'
      · exact h.inflight_active l' hl' }

theorem inv_runHandler {s : State} (h : Inv s) (l : Line) : Inv (runHandler l s) :=
  inv_emit (inv_emit h _) _

theorem inv_returnHandler {s : State} (h : Inv s) (l : Line) : Inv (returnHandler l s) :=
  inv_setInflight (inv_emit h _) l .none (by simp)

theorem active_irqsOn_of_deliverable {s : State} {l : Line} (h : s.deliverable l = true) :
    s.active = true ∧ s.phase.irqsOn = true := by
  simp only [State.deliverable, Bool.and_eq_true] at h
  obtain ⟨⟨⟨⟨⟨ha, -⟩, -⟩, -⟩, -⟩, hon⟩ := h
  exact ⟨ha, hon⟩

theorem inv_enterHandler {s : State} (h : Inv s) {l : Line} (hd : s.deliverable l = true) :
    Inv (enterHandler l s) :=
  inv_setInflight (inv_emit (inv_setLatch h l false) _) l .needSync
    fun _ => by simpa using active_irqsOn_of_deliverable hd

/-! ### The moves of the phase machine -/

/-- In `PH_RUN` both lines of an active controller may be armed or disarmed at will (R172). -/
theorem inv_wakeArmed {s : State} (h : Inv s) (ha : s.active = true) (hp : s.phase = .run) (b : Bool) :
    Inv { s with wakeArmed := b } :=
  inv_of_sub h.active_attached h.capable_eq (fun _ => ha) h.ids_differ h.phase_attached
    (fun l => by rw [sub_at_of_inv h l, hp]; rfl)
    h.endpoint_eq h.capability_eq h.inflight_active h.key_width h.stclr_width

theorem no_handler_of_mayMoveFrom {s : State} {ph : Phase} (hm : s.mayMoveFrom ph = true) (l : Line) :
    s.inflight.at l ≠ .needSync := by
  obtain ⟨-, -, hq⟩ := of_mayMoveFrom hm
  rw [hq]
  cases l <;> decide

/-- A move of R171 keeps the invariant if it leaves the subscriptions the new phase asks for: its guard
says that a controller is attached and no handler is in progress. -/
theorem inv_setPhase {s : State} (h : Inv s) {ph : Phase} (hm : s.mayMoveFrom ph = true) (ph' : Phase)
    (sub : PerLine Sub) (hsub : ∀ l, sub.at l = subInPhase s.active s.wakeArmed ph') :
    Inv (setPhase ph' { s with sub := sub }) :=
  inv_of_sub h.active_attached h.capable_eq h.armed_active h.ids_differ (fun _ => (of_mayMoveFrom hm).1)
    hsub h.endpoint_eq h.capability_eq (fun l hl => absurd hl (no_handler_of_mayMoveFrom hm l))
    h.key_width h.stclr_width

/-- The moves that touch no subscription are those from one phase outside `PH_RUN` to another. -/
theorem inv_setPhase_not_running {s : State} (h : Inv s) {ph ph' : Phase} (hm : s.mayMoveFrom ph = true)
    (hp : ph ≠ .run) (hp' : ph' ≠ .run) : Inv (setPhase ph' s) := by
  refine inv_setPhase h hm ph' s.sub fun l => ?_
  rw [sub_at_of_inv h l, (of_mayMoveFrom hm).2.1, subInPhase_not_running _ _ hp hp']

theorem suspendSubs_eq (s : State) : suspendSubs s = { s with sub := (suspendSubs s).sub } := by
  unfold suspendSubs; split <;> [split; skip] <;> rfl

theorem resumeSubs_eq (s : State) : resumeSubs s = { s with sub := (resumeSubs s).sub } := by
  unfold resumeSubs; split <;> [split; skip] <;> rfl

theorem suspendSubs_sub_at (s : State) (l : Line) :
    (suspendSubs s).sub.at l =
      if s.active then
        if s.wakeArmed then { s.sub.at l with wakeMarked := true } else { s.sub.at l with enabled := false }
      else s.sub.at l := by
  unfold suspendSubs; split <;> [split; skip] <;> cases l <;> rfl

theorem resumeSubs_sub_at (s : State) (l : Line) :
    (resumeSubs s).sub.at l =
      if s.active then
        if s.wakeArmed then { s.sub.at l with wakeMarked := false } else { s.sub.at l with enabled := true }
      else s.sub.at l := by
  unfold resumeSubs; split <;> [split; skip] <;> cases l <;> rfl

/-- In `PH_RUN` the suspend procedure leaves what every other phase asks for (R174). -/
theorem suspendSubs_sub_at_of_inv {s : State} (h : Inv s) (hp : s.phase = .run) {ph : Phase}
    (hph : ph ≠ .run) (l : Line) : (suspendSubs s).sub.at l = subInPhase s.active s.wakeArmed ph := by
  rw [suspendSubs_sub_at, sub_at_of_inv h l, hp]
  cases s.active
  · rfl
  · cases s.wakeArmed <;> simp [subInPhase, hph, Sub.fresh]

/-- Outside `PH_RUN` the resume procedure leaves what `PH_RUN` asks for (R182). -/
theorem resumeSubs_sub_at_of_inv {s : State} (h : Inv s) (hp : s.phase ≠ .run) (l : Line) :
    (resumeSubs s).sub.at l = subInPhase s.active s.wakeArmed .run := by
  rw [resumeSubs_sub_at, sub_at_of_inv h l]
  cases s.active
  · rfl
  · cases s.wakeArmed <;> simp [subInPhase, hp, Sub.fresh]

theorem inv_suspendSubs {s : State} (h : Inv s) (hm : s.mayMoveFrom .run = true) {ph : Phase}
    (hph : ph ≠ .run) : Inv (setPhase ph (suspendSubs s)) := by
  rw [suspendSubs_eq]
  exact inv_setPhase h hm ph _ (suspendSubs_sub_at_of_inv h (of_mayMoveFrom hm).2.1 hph)

theorem inv_resumeSubs {s : State} (h : Inv s) {ph : Phase} (hm : s.mayMoveFrom ph = true)
    (hph : ph ≠ .run) : Inv (setPhase .run (resumeSubs s)) := by
  rw [resumeSubs_eq]
  exact inv_setPhase h hm .run _ (resumeSubs_sub_at_of_inv h ((of_mayMoveFrom hm).2.1 ▸ hph))

/-- `RESUME_NOIRQ` may clear the press latch on the way (R180). -/
theorem inv_resumeNoirq {s : State} (h : Inv s) (hm : s.mayMoveFrom .noirq = true) (clear : Bool) :
    Inv (setPhase .noirqResumed (if clear then setPressLatch false s else s)) := by
  split
  · exact inv_setPhase_not_running (inv_setPressLatch h false) hm (by decide) (by decide)
  · exact inv_setPhase_not_running h hm (by decide) (by decide)

/-! ### Attachment, detachment, reset -/

/-- A controller, if any, that is not active and has every other field as at reset (R41, R212). -/
theorem inv_clearController {s : State} (c : Option Controller) (hp : s.phase = .run)
    (hq : ∀ l, s.inflight.at l ≠ .needSync) (hk : s.key.toNat < 2 ^ s.params.regw)
    (hs : s.stclr.toNat < 2 ^ s.params.regw) : Inv { clearController s with controller := c } :=
  inv_of_sub nofun rfl nofun nofun (fun h => absurd hp h) (fun l => by cases l <;> rfl) rfl rfl
    (fun l hl => absurd hl (hq l)) hk hs

/-- A detached block is in `PH_RUN`, is not active and has no handler in progress (R39). -/
theorem of_inv_detached {s : State} (h : Inv s) (hd : s.attached = false) :
    s.phase = .run ∧ s.active = false ∧ ∀ l, s.inflight.at l ≠ .needSync := by
  have ha : s.active = false := by
    by_contra hc
    simp [h.active_attached (by simpa using hc)] at hd
  refine ⟨by_contra fun hp => ?_, ha, fun l hl => ?_⟩
  · simp [h.phase_attached hp] at hd
  · simp [(h.inflight_active l hl).1] at ha

theorem inv_commitInactive {s : State} (h : Inv s) (hd : s.attached = false) (c : Controller) :
    Inv (commitInactive c s) :=
  have ⟨hp, _, hq⟩ := of_inv_detached h hd
  inv_clearController (some c) hp hq h.key_width h.stclr_width

theorem inv_commitActive {s : State} (h : Inv s) (hd : s.attached = false) (c : Controller) {ids : IrqIds}
    (hids : ids.press ≠ ids.release) : Inv (commitActive c ids s) :=
  have ⟨hp, _, hq⟩ := of_inv_detached h hd
  inv_of_sub (fun _ => rfl) rfl nofun (fun _ h => Option.some.inj h ▸ hids) (fun h => absurd hp h)
    (fun l => by rw [commitActive_phase, hp]; cases l <;> rfl) rfl rfl (fun l hl => absurd hl (hq l))
    h.key_width h.stclr_width

/-- The guard of `ATTACH` compares the identifiers as bytes (R204); zero-extended they differ too. -/
theorem attachIds_differ {a : AttachArg} (h : a.pid ≠ a.rid) :
    (attachIds a).press ≠ (attachIds a).release := by
  intro he
  have hbytes := congrArg (BitVec.setWidth 8) he
  exact h (by simpa [attachIds] using hbytes)

theorem inv_resetWith (p : Params) {key stclr : Word} (latch : Bool) (btn : Level)
    (hk : key.toNat < 2 ^ p.regw) (hs : stclr.toNat < 2 ^ p.regw) :
    Inv (State.resetWith p key stclr latch btn) :=
  inv_clearController (s := State.resetWith p key stclr latch btn) none rfl (fun l => by cases l <;> nofun)
    hk hs

theorem inv_resetAll (s : State) : Inv (resetAll s) :=
  { inv_resetWith s.params (Config.drawReleaseLatch s.draws) (Config.drawBtn s.draws)
      (toReg_lt s.params (Config.drawKey s.draws)) (toReg_lt s.params (Config.drawStclr s.draws)) with }

/-- Settles O54: the reset state has no controller, the draws have the widths of their registers, and
its sink is empty. -/
theorem resetStatesMeetTheInvariants : Obligations.ResetStatesMeetTheInvariants :=
  ⟨fun p _ _ latch btn hk hs => ⟨inv_resetWith p latch btn hk hs, rfl, rfl, rfl, rfl, rfl⟩,
    inv_resetWith Config.reference false .high (by decide) (by decide), rfl⟩

/-! ### Every step -/

/-- Each form a next state can have keeps the invariant, by the guard it arises under. -/
theorem inv_of_effect {i : Instr} {s t : State} (h : Inv s) (he : Effect i s t) : Inv t := by
  cases he with
  | refused => exact inv_reply h _ _
  | errored => exact inv_reply h _ _
  | readFailed => exact inv_reply (inv_drawn h) _ _
  | answered => exact inv_reply h _ _
  | written g req c m v _ _ _ hm _ => exact inv_reply (hm ▸ inv_updatedKey h c.profile g v) _ _
  | handled l => exact inv_reply (inv_runHandler h l) _ _
  | fell ld => exact inv_reply (inv_latchEdge (inv_btn h .low) .press ld) _ _
  | rose ld => exact inv_reply (inv_latchEdge (inv_btn h .high) .release ld) _ _
  | delivered l _ hd => exact inv_reply (inv_enterHandler h hd) _ _
  | finished l => exact inv_reply (inv_returnHandler h l) _ _
  | armed b _ ha _ hp => exact inv_reply (inv_wakeArmed h ha hp b) _ _
  | suspended _ hm => exact inv_reply (inv_suspendSubs h hm (by decide)) _ _
  | shutDown _ hm => exact inv_reply (inv_suspendSubs h hm (by decide)) _ _
  | irqsOff _ hm => exact inv_reply (inv_setPhase_not_running h hm (by decide) (by decide)) _ _
  | resumedNoirq tf c _ hm => exact inv_reply (inv_resumeNoirq h hm _) _ _
  | irqsOn _ hm => exact inv_reply (inv_setPhase_not_running h hm (by decide) (by decide)) _ _
  | resumed _ hm => exact inv_reply (inv_resumeSubs h hm (by decide)) _ _
  | attachedInactive a _ hd => exact inv_reply (inv_commitInactive h hd _) _ _
  | attachedActive a _ hd hne => exact inv_reply (inv_commitActive h hd _ (attachIds_differ hne)) _ _
  | detached _ hm =>
    exact inv_reply (inv_clearController none (of_mayMoveFrom hm).2.1 (no_handler_of_mayMoveFrom hm)
      h.key_width h.stclr_width) _ _
  | reset => exact inv_reply (inv_drawn (inv_resetAll s)) _ _

theorem inv_of_exec {i : Instr} {s t : State} (h : Inv s) (hx : exec i s = .next t) : Inv t :=
  inv_of_effect h (effect_of_exec hx)

/-- Settles O55: taking the command off the port keeps the invariant, and so does what follows, a
reserved command's answer or an instruction's effect. -/
theorem stepKeepsTheInvariant : Obligations.StepKeepsTheInvariant := by
  intro s t h hstep
  obtain ⟨c, rest, -, ⟨e, -, rfl⟩ | ⟨i, -, hx⟩⟩ := step_cases hstep
  · exact inv_reply (inv_pending h rest) _ _
  · exact inv_of_exec (inv_pending h rest) hx

end Sys2Proof.Machine
end

section
/-! PROOFS. What no instruction but a few writes: the parameters (R28, R264), the device (R29), `wake_armed`
(R31) and the two registers (R22, R26). Each frame is one case analysis over `Effect`. -/

namespace Sys2Proof.Machine

/-! ### The parameters (R28, R29, R264) -/

theorem params_of_effect {i : Instr} {s t : State} (he : Effect i s t) : t.params = s.params := by
  cases he with
  | resumedNoirq => simp [apply_ite State.params]
  | _ => simp

/-- Settles O56: no form of a next state, and not the taking of the command, touches the parameters. -/
theorem noStepChangesTheParameters : Obligations.NoStepChangesTheParameters := by
  intro s t hstep
  obtain ⟨c, rest, -, ⟨e, -, rfl⟩ | ⟨i, -, hx⟩⟩ := step_cases hstep
  · rfl
  · calc t.params = { s with pending := rest }.params := params_of_effect (effect_of_exec hx)
      _ = s.params := rfl

/-! ### The device (R29, R203) -/

/-- Only `ATTACH` of a detached block, `DETACH` and `RESET` write the controller. -/
theorem controller_of_effect {i : Instr} {s t : State} (he : Effect i s t) :
    t.controller = s.controller ∨ s.attached = false ∨ i = .detach ∨ i = .reset := by
  cases he with
  | attachedInactive a _ hd => exact .inr (.inl hd)
  | attachedActive a _ hd => exact .inr (.inl hd)
  | detached hi => exact .inr (.inr (.inl hi))
  | reset hi => exact .inr (.inr (.inr hi))
  | resumedNoirq => exact .inl (by simp [apply_ite State.controller])
  | _ => exact .inl (by simp)

/-- Settles O52: `ATTACH`, the one other writer, is refused while a controller exists. -/
theorem deviceIsHeldForItsLifetime : Obligations.DeviceIsHeldForItsLifetime := by
  intro i s t c hx hc hdetach hreset
  obtain hsame | hd | hi | hi := controller_of_effect (effect_of_exec hx)
  · exact hsame.trans hc
  · simp [State.attached, hc] at hd
  · exact absurd hi hdetach
  · exact absurd hi hreset

/-! ### `wake_armed` (R31) -/

theorem wakeArmed_of_effect {i : Instr} {s t : State} (he : Effect i s t) :
    t.wakeArmed = s.wakeArmed ∨ (∃ b, i = .wakearm b)
      ∨ (t.wakeArmed = false ∧ ((∃ a, i = .attach a) ∨ i = .detach ∨ i = .reset)) := by
  cases he with
  | armed b hi => exact .inr (.inl ⟨b, hi⟩)
  | attachedInactive a hi => exact .inr (.inr ⟨rfl, .inl ⟨a, hi⟩⟩)
  | attachedActive a hi => exact .inr (.inr ⟨rfl, .inl ⟨a, hi⟩⟩)
  | detached hi => exact .inr (.inr ⟨rfl, .inr (.inl hi)⟩)
  | reset hi => exact .inr (.inr ⟨rfl, .inr (.inr hi)⟩)
  | resumedNoirq => exact .inl (by simp [apply_ite State.wakeArmed])
  | _ => exact .inl (by simp)

/-- Settles O47: of the writers of `wake_armed` only `WAKEARM` can set it. -/
theorem onlyWakearmArms : Obligations.OnlyWakearmArms :=
  fun _ _ _ hx hne => (wakeArmed_of_effect (effect_of_exec hx)).resolve_left hne

/-! ### The two registers (R22, R25, R26, R59) -/

/-- `KEY` is written by `CALWR.s`, under the mask of the attached profile, and by `RESET`. -/
theorem key_of_effect {i : Instr} {s t : State} (he : Effect i s t) :
    t.key = s.key ∨ i = .reset ∨ ∃ req g c v, i = calwrOf false req g ∧ s.controller = some c
      ∧ t.key = updatedBits s.key (s.params.mask c.profile g) v := by
  cases he with
  | written g req c m v hi hc _ hm _ => exact .inr (.inr ⟨req, g, c, v, hi, hc, hm ▸ rfl⟩)
  | reset hi => exact .inr (.inl hi)
  | resumedNoirq => exact .inl (by simp [apply_ite State.key])
  | _ => exact .inl (by simp)

/-- The instructions that write the press latch (R26): a falling edge, a press delivery, the step of
`RESUME_NOIRQ`. -/
def WritesPressLatch (i : Instr) : Prop :=
  (∃ ld, i = .edgeF ld) ∨ i = .deliverP ∨ ∃ tf, i = .resumeNoirq tf

theorem stclr_latchEdge_press (ld : Bool) (s : State) :
    (latchEdge .press ld s).stclr = s.stclr
      ∨ (latchEdge .press ld s).stclr = withBit s.stclr s.params.pressLatchBit true := by
  unfold latchEdge
  split
  · exact .inr rfl
  · split
    · exact .inr rfl
    · exact .inl rfl

theorem stclr_latchEdge_release (ld : Bool) (s : State) : (latchEdge .release ld s).stclr = s.stclr := by
  unfold latchEdge; split <;> [skip; split] <;> rfl

/-- `STCLR` is written by the three, and of it the press latch alone, and by `RESET`. -/
theorem stclr_of_effect {i : Instr} {s t : State} (he : Effect i s t) :
    t.stclr = s.stclr ∨ i = .reset
      ∨ (WritesPressLatch i ∧ ∃ b, t.stclr = withBit s.stclr s.params.pressLatchBit b) := by
  cases he with
  | fell ld hi =>
    obtain h | h := stclr_latchEdge_press ld { s with btn := .low }
    · exact .inl h
    · exact .inr (.inr ⟨.inl ⟨ld, hi⟩, true, h⟩)
  | rose ld => exact .inl (stclr_latchEdge_release ld _)
  | delivered l hi =>
    cases l with
    | press => exact .inr (.inr ⟨.inr (.inl hi), false, rfl⟩)
    | release => exact .inl rfl
  | resumedNoirq tf c hi =>
    split
    · exact .inr (.inr ⟨.inr (.inr ⟨tf, hi⟩), false, rfl⟩)
    · exact .inl rfl
  | reset hi => exact .inr (.inl hi)
  | _ => exact .inl (by simp)

theorem calwrOf_setting {tf tf' : Bool} {req req' : Word} {g g' : Setting}
    (h : calwrOf tf req g = calwrOf tf' req' g') : g = g' := by
  cases g <;> cases g' <;> simp [calwrOf] at h ⊢

/-- Settles O25: a register that changed was written by one of its writers; a calibration write keeps the
bits outside its mask (R59), and setting or clearing one bit of `STCLR` keeps the others. -/
theorem registersChangeOnlyWhereTheRulesWrite : Obligations.RegistersChangeOnlyWhereTheRulesWrite := by
  intro i s t hx
  have hkey := key_of_effect (effect_of_exec hx)
  have hstclr := stclr_of_effect (effect_of_exec hx)
  refine ⟨fun r hr => ?_, fun tf req g c hi hc j hj => ?_, fun hreset j hj => ?_⟩
  · rw [memRead_ne_iff] at hr
    cases r with
    | key =>
      obtain h | ⟨req, g, -, -, hi, -⟩ := hkey.resolve_left hr
      · exact .inl h
      · exact .inr (.inl ⟨rfl, false, req, g, hi⟩)
    | stclr =>
      obtain h | ⟨hw, -⟩ := hstclr.resolve_left hr
      · exact .inl h
      · exact .inr (.inr ⟨rfl, hw⟩)
  · obtain h | h | ⟨req', g', c', v, hi', hc', h⟩ := hkey
    · rw [h]
    · cases g <;> cases hi.symm.trans h
    · obtain rfl := calwrOf_setting (hi.symm.trans hi')
      obtain rfl := Option.some.inj (hc.symm.trans hc')
      rw [h, getLsbD_updatedBits, hj, if_neg (by decide)]
  · obtain h | h | ⟨-, b, h⟩ := hstclr
    · rw [h]
    · exact absurd h hreset
    · rw [h, getLsbD_withBit _ _ _ _ (pressLatchBit_lt s.params), if_neg hj]

end Sys2Proof.Machine
end

section
/-! PROOFS. What the accesses to the registers do (R58, R59), how two calibration writes combine (R65,
R66), and which operations append to the sink (R53). -/

namespace Sys2Proof.Machine

/-! ### The register transport (R58, R59) -/

/-- R59 for either register: an update gives the register its updated bits, or fails. -/
theorem regUpdateBits_eq (r : Register) (m v : Word) (tf : Bool) (s : State) :
    regUpdateBits r m v tf s
      = if tf then .failed else .done (writeRegister r (updatedBits (readRegister r s) m v) s) := rfl

/-- Settles O18: the value written is `updatedBits`, whose bits are known one by one. -/
theorem updateBitsWritesOnlyTheMask : Obligations.UpdateBitsWritesOnlyTheMask := by
  intro s r m v
  refine ⟨⟨updatedBits (readRegister r s) m v, ?_, getLsbD_updatedBits (readRegister r s) m v⟩, ?_⟩
  · rw [regUpdateBits_eq, if_neg (by decide)]
  · rw [regUpdateBits_eq, if_pos rfl]

/-- Settles O19: the two branches of a read, by the failure draw. -/
theorem memReadGivesTheRegister : Obligations.MemReadGivesTheRegister :=
  fun s => ⟨memRead_eq .key false s, memRead_eq .stclr false s, fun r => memRead_eq r true s⟩

/-! ### Two calibration writes (R65, R66) -/

/-- The state a calibration write the transport accepts leaves under a profile (R135). -/
def calibrated (prof : Profile) (g : Setting) (req : Word) (s : State) : State :=
  reply .ok (shiftedNearest req (s.params.mask prof g) (s.params.table prof g))
    { s with key := updatedBits s.key (s.params.mask prof g)
              (shiftedNearest req (s.params.mask prof g) (s.params.table prof g)) }

section
variable (prof : Profile) (g : Setting) (req : Word) (s : State)

@[simp] theorem calibrated_controller : (calibrated prof g req s).controller = s.controller := rfl
@[simp] theorem calibrated_phase : (calibrated prof g req s).phase = s.phase := rfl
@[simp] theorem calibrated_status : (calibrated prof g req s).resp.status = .ok := rfl

end

/-- R135 where the guard holds and the transport does not fail. -/
theorem exec_calwrOf_accepted {s : State} {c : Controller} (g : Setting) (req : Word)
    (hc : s.controller = some c) (hp : s.phase ≠ .off) :
    exec (calwrOf false req g) s = .next (calibrated c.profile g req s) := by
  have hexec : exec (calwrOf false req g) s = calibrationWrite g false req s := by cases g <;> rfl
  rw [hexec, calibrationWrite, withController_runs _ hc hp]
  rfl

/-- A second write finds the guard as the first did. -/
theorem exec_calwrOf_calibrated {s : State} {c : Controller} (g g' : Setting) (r r' : Word)
    (hc : s.controller = some c) (hp : s.phase ≠ .off) :
    exec (calwrOf false r' g') (calibrated c.profile g r s)
      = .next (calibrated c.profile g' r' (calibrated c.profile g r s)) :=
  exec_calwrOf_accepted g' r' (by rw [calibrated_controller, hc]) (by rwa [calibrated_phase])

/-- The later of two writes of one setting is all that is left of them. -/
theorem calibrated_calibrated (prof : Profile) (g : Setting) (r1 r2 : Word) (s : State) :
    calibrated prof g r2 (calibrated prof g r1 s) = calibrated prof g r2 s := by
  simp [calibrated, reply, updatedBits_updatedBits]

/-- Writes under disjoint masks commute, but for the response. -/
theorem calibrated_comm {prof : Profile} {g g' : Setting} {s : State}
    (h : s.params.mask prof g &&& s.params.mask prof g' = 0) (r1 r2 : Word) (resp : Response) :
    { calibrated prof g' r2 (calibrated prof g r1 s) with resp := resp }
      = { calibrated prof g r1 (calibrated prof g' r2 s) with resp := resp } := by
  simp [calibrated, reply, updatedBits_comm h]

theorem masks_disjoint_of_profileWf {p : Params} {prof : Profile} (h : p.profileWf prof = true) :
    p.mask prof .st &&& p.mask prof .sd = 0 := by
  rw [Params.profileWf, Bool.and_eq_true, beq_iff_eq] at h
  exact h.2

/-- Settles O23: each of the three writes is accepted, and under one mask the later update overwrites the
earlier. -/
theorem lastWriterOfASettingWins : Obligations.LastWriterOfASettingWins := by
  intro s c g r1 r2 hc hp
  exact ⟨calibrated c.profile g r1 s, calibrated c.profile g r2 (calibrated c.profile g r1 s),
    calibrated c.profile g r2 s,
    exec_calwrOf_accepted g r1 hc hp, calibrated_status ..,
    exec_calwrOf_calibrated g g r1 r2 hc hp, calibrated_status ..,
    exec_calwrOf_accepted g r2 hc hp, calibrated_calibrated c.profile g r1 r2 s⟩

/-- Settles O24: each of the four writes is accepted, and `ProfileWF` makes the two masks disjoint. -/
theorem writesOfTheTwoSettingsCommute : Obligations.WritesOfTheTwoSettingsCommute := by
  intro s c r1 r2 hc hp hwf
  exact ⟨calibrated c.profile .st r1 s, calibrated c.profile .sd r2 (calibrated c.profile .st r1 s),
    calibrated c.profile .sd r2 s, calibrated c.profile .st r1 (calibrated c.profile .sd r2 s),
    exec_calwrOf_accepted .st r1 hc hp, exec_calwrOf_calibrated .st .sd r1 r2 hc hp,
    exec_calwrOf_accepted .sd r2 hc hp, exec_calwrOf_calibrated .sd .st r2 r1 hc hp,
    calibrated_comm (masks_disjoint_of_profileWf hwf) r1 r2 _⟩

/-! ### The sink (R53, R37) -/

@[simp] theorem enterHandler_sink (l : Line) (s : State) :
    (enterHandler l s).sink = s.sink ++ [keyEventOf l] := by
  simp [enterHandler]

/-- The instructions in which the edge handler emits (R153). -/
def RunsHandler (i : Instr) : Prop :=
  (∃ id, i = .irq id) ∨ i = .deliverP ∨ i = .deliverR ∨ i = .finishP ∨ i = .finishR

theorem runsHandler_deliverOf (l : Line) : RunsHandler (deliverOf l) := by
  cases l <;> simp [RunsHandler, deliverOf]

theorem runsHandler_finishOf (l : Line) : RunsHandler (finishOf l) := by
  cases l <;> simp [RunsHandler, finishOf]

/-- The sink is written by the handler, at its end, and by `RESET`. -/
theorem sink_of_effect {i : Instr} {s t : State} (he : Effect i s t) :
    t.sink = s.sink ∨ i = .reset ∨ (RunsHandler i ∧ ∃ es, t.sink = s.sink ++ es) := by
  cases he with
  | handled l id hi =>
    exact .inr (.inr ⟨.inl ⟨id, hi⟩, [keyEventOf l, .sync], by simp⟩)
  | delivered l hi => exact .inr (.inr ⟨hi ▸ runsHandler_deliverOf l, [keyEventOf l], by simp⟩)
  | finished l hi => exact .inr (.inr ⟨hi ▸ runsHandler_finishOf l, [.sync], by simp⟩)
  | reset hi => exact .inr (.inl hi)
  | resumedNoirq => exact .inl (by simp [apply_ite State.sink])
  | _ => exact .inl (by simp)

/-- Settles O33: a step that writes the sink is the handler's, and one that does not appends nothing. -/
theorem onlyTheHandlerWritesTheSink : Obligations.OnlyTheHandlerWritesTheSink := by
  intro i s t hx hreset
  obtain hsame | hi | ⟨hrun, es, hes⟩ := sink_of_effect (effect_of_exec hx)
  · exact ⟨[], by simp [hsame], fun hne => absurd rfl hne⟩
  · exact absurd hi hreset
  · exact ⟨es, hes, fun _ => hrun⟩

end Sys2Proof.Machine
end

section
/-! PROOFS. The encodings (R86, R90, R91, R93, R103): that one row at most selects a `CMD`, what the
encoder and the decoder do with the operands, and that each undoes the other. -/

namespace Sys2Proof

/-! ### The row of a command (R91, R93) -/

theorem mem_op_all (o : Op) : o ∈ Op.all := by
  cases o <;> decide

theorem selects_of_find {cmd : Byte} {o : Op} (h : Op.all.find? (fun o => o.selects cmd) = some o) :
    o.selects cmd = true :=
  List.find?_some (p := fun o : Op => o.selects cmd) h

/-- Where one row alone selects `CMD`, the decoder's search ends at it. -/
theorem find_of_selects_iff {cmd : Byte} {o : Op} (h : ∀ o' : Op, o'.selects cmd = true ↔ o' = o) :
    Op.all.find? (fun o' => o'.selects cmd) = some o := by
  cases hf : Op.all.find? (fun o' => o'.selects cmd) with
  | none => exact absurd ((h o).mpr rfl) (List.find?_eq_none.mp hf o (mem_op_all o))
  | some o' => rw [(h o').mp (selects_of_find hf)]

/-- The map of the rule has a row for `CMD` exactly where the decoder has one. -/
theorem exists_opcodeMap_row_iff (cmd : Byte) :
    (∃ row ∈ Machine.opcodeMap, cmd &&& row.2 = row.1) ↔ ∃ o : Op, o.selects cmd = true := by
  simp [opcodeMap_eq, Op.selects, mem_op_all]

theorem decode_eq_ok_of_selects {c : Command} (h : ∃ o : Op, o.selects c.cmd = true) :
    ∃ i, decode c = .ok i := by
  obtain ⟨o, ho⟩ := h
  have hfind : (Op.all.find? fun o => o.selects c.cmd).isSome = true :=
    List.find?_isSome.mpr ⟨o, mem_op_all o, ho⟩
  obtain ⟨o', ho'⟩ := Option.isSome_iff_exists.mp hfind
  exact ⟨_, decode_of_find ho'⟩

theorem decode_eq_error_of_not_selects {c : Command} (h : ¬ ∃ o : Op, o.selects c.cmd = true) :
    decode c = .error (.reservedCommand c.cmd) := by
  have hf : Op.all.find? (fun o => o.selects c.cmd) = none :=
    List.find?_eq_none.mpr fun o _ ho => h ⟨o, ho⟩
  simp [decode, hf]

/-! ### The operands of an encoded instruction (R90, R103) -/

theorem getLsbD_argBit_self (b : Bool) {i : Nat} (h : i < 32) : (argBit b i).getLsbD i = b := by
  simp only [getLsbD_argBit, h, decide_true, Bool.and_true]

theorem getLsbD_argBit_of_ne (b : Bool) {i j : Nat} (h : i ≠ j) : (argBit b i).getLsbD j = false := by
  simp only [getLsbD_argBit, h, decide_false, Bool.and_false]

theorem getLsbD_argField_add {n : Nat} (v : BitVec n) {i j : Nat} (h : i + j < 32) :
    (argField n v i).getLsbD (i + j) = v.getLsbD j := by
  simp [getLsbD_argField, h, -BitVec.getLsbD_eq_getElem]

theorem getLsbD_argField_below {n : Nat} (v : BitVec n) {i j : Nat} (h : j < i) :
    (argField n v i).getLsbD j = false := by
  simp [getLsbD_argField, h]

theorem getLsbD_argField_above {n : Nat} (v : BitVec n) {i j : Nat} (h : i + n ≤ j) :
    (argField n v i).getLsbD j = false := by
  rw [getLsbD_argField, BitVec.getLsbD_of_ge v (j - i) (by omega), Bool.and_false]

theorem extractLsb'_eq_of_getLsbD {w n i : Nat} {x : BitVec w} {v : BitVec n}
    (h : ∀ j < n, x.getLsbD (i + j) = v.getLsbD j) : x.extractLsb' i n = v := by
  apply BitVec.eq_of_getLsbD_eq
  intro j hj
  rw [BitVec.getLsbD_extractLsb', h j hj, decide_eq_true hj, Bool.true_and]

/-- The fields of `ATTACH` stand at different bits, so each is read back as it was written. -/
theorem ofArg_toArg (a : AttachArg) : AttachArg.ofArg a.toArg = a := by
  have last : ∀ y : Word, y ||| 0 = y := fun _ => BitVec.or_zero
  have hfields : a.toArg.extractLsb' 1 3 = a.typeHigh ∧ a.toArg.extractLsb' 16 8 = a.pid
      ∧ a.toArg.extractLsb' 24 8 = a.rid := by
    refine ⟨?_, ?_, ?_⟩
    all_goals
      apply extractLsb'_eq_of_getLsbD
      intro j hj
      simp (disch := omega) only [AttachArg.toArg, List.foldr, last, BitVec.getLsbD_or, Bool.false_or,
        Bool.or_false, getLsbD_argBit_of_ne, getLsbD_argField_add, getLsbD_argField_below, getLsbD_argField_above]
  obtain ⟨htype, hpid, hrid⟩ := hfields
  rw [AttachArg.ofArg, htype, hpid, hrid]
  simp (disch := omega) only [AttachArg.toArg, List.foldr, last, BitVec.getLsbD_or, Bool.false_or, Bool.or_false,
    getLsbD_argBit_self, getLsbD_argBit_of_ne, getLsbD_argField_below, getLsbD_argField_above]

/-- An instruction is what its row makes of its draw and its operand word. -/
theorem instr_op_draw_arg (i : Instr) : i.op.instr i.draw i.arg = i := by
  cases i with
  | wakearm b => simp [Instr.op, Instr.arg, Op.instr, getLsbD_argBit, -BitVec.getLsbD_eq_getElem]
  | gate gs a1 a2 => simp [Instr.op, Instr.arg, Op.instr, getLsbD_argBit, -BitVec.getLsbD_eq_getElem]
  | attach a => exact congrArg Instr.attach (ofArg_toArg a)
  | _ => rfl

/-- Settles O2: the row of the instruction alone selects its `CMD`, and gives it its draw and its
operands back. -/
theorem encodeThenDecodeIsIdentity : Obligations.EncodeThenDecodeIsIdentity := by
  intro i
  obtain ⟨hrow, hdraw, -⟩ := Laws.OwnRow.of_instr i
  calc decode (encode i)
      = .ok (i.op.instr (drawBit (encode i).cmd) (encode i).arg) := decode_of_find (find_of_selects_iff hrow)
    _ = .ok (i.op.instr i.draw i.arg) := by rw [hdraw]; rfl
    _ = .ok i := by rw [instr_op_draw_arg]

/-! ### The command of a decoded instruction (R90, R91) -/

theorem op_mask_cases (o : Op) : o.mask = 0xF7 ∨ o.mask = 0xFF := by
  cases o <;> decide

/-- A row hands the draw on exactly where its mask leaves `CMD[3]` open (R86). -/
theorem op_instr_draw (o : Op) (d : Bool) (x : Word) : (o.instr d x).draw = (d && o.mask == 0xF7) := by
  cases o <;> cases d <;> rfl

theorem and_mask_or_drawBit (cmd : Byte) : (cmd &&& 0xF7) ||| byteBit (drawBit cmd) 3 = cmd := by
  revert cmd
  decide

/-- The `CMD` that a row selects is the row's pattern and the draw the row reads. -/
theorem pattern_or_draw_of_selects {o : Op} {cmd : Byte} (h : o.selects cmd = true) (x : Word) :
    o.pattern ||| byteBit (o.instr (drawBit cmd) x).draw 3 = cmd := by
  have hpat : cmd &&& o.mask = o.pattern := by simpa [Op.selects] using h
  rw [op_instr_draw, ← hpat]
  obtain hm | hm := op_mask_cases o <;> rw [hm]
  · simpa using and_mask_or_drawBit cmd
  · have ones : cmd &&& 0xFF = cmd := BitVec.and_allOnes
    rw [ones]
    simp [byteBit]

/-- Settles O3: a decoded command is its row's reading of it (`find_of_decode`), of which the encoder
writes the same `CMD` and keeps the operand bits; and what it writes decodes by O2. -/
theorem decodedCommandsReencode : Obligations.DecodedCommandsReencode := by
  intro c i h
  obtain ⟨hfind, hi⟩ := find_of_decode h
  have hcmd : (encode i).cmd = c.cmd := by
    have hsel : i.op.selects c.cmd = true := selects_of_find hfind
    have hpat := pattern_or_draw_of_selects hsel c.arg
    rwa [← hi] at hpat
  have harg : (encode i).arg = c.arg &&& Machine.operandBits i := by
    have hkept := instr_arg_eq i.op (drawBit c.cmd) c.arg
    rwa [← hi] at hkept
  refine ⟨hcmd, harg, ?_⟩
  rw [← hcmd, ← harg]
  exact encodeThenDecodeIsIdentity i

theorem Machine.step_of_decode_error {s : State} {c : Command} {rest : List Command} {e : DecodeError}
    (hp : s.pending = c :: rest) (hd : decode c = .error e) :
    step s = illegalCommand { s with pending := rest } := by
  simp only [step, takeCommand_cons hp, hd]

/-- Settles O4: the rule's map selects what the decoder's rows select, and a step answers a command
that has none with `ILLEGAL_OP`. -/
theorem reservedCommandsAnswerIllegalOp : Obligations.ReservedCommandsAnswerIllegalOp := by
  intro s c rest hp
  refine ⟨fun hnone => ?_, fun hrow => decode_eq_ok_of_selects ((exists_opcodeMap_row_iff c.cmd).mp hrow)⟩
  have hd : decode c = .error (.reservedCommand c.cmd) :=
    decode_eq_error_of_not_selects fun hsel => by
      obtain ⟨row, hmem, heq⟩ := (exists_opcodeMap_row_iff c.cmd).mpr hsel
      exact hnone row hmem heq
  exact Machine.step_of_decode_error hp hd

/-! ### Command words and the operand of `ATTACH` (R91, R103) -/

/-- Settles O1: each word is decoded by evaluation. -/
theorem opcodeMapWordsDecode : Obligations.OpcodeMapWordsDecode := by
  unfold Obligations.OpcodeMapWordsDecode
  decide

/-- Settles O60: `CMD` 0x71 is the row of `ATTACH`, whose fields `AttachArg.ofArg` reads. -/
theorem attachOperandLayout : Obligations.AttachOperandLayout := by
  intro arg
  have hfind : Op.all.find? (fun o => o.selects 0x71) = some .attach := by decide
  have hrid : arg.toNat / 2 ^ 24 < 2 ^ 8 := by have := arg.isLt; omega
  refine ⟨AttachArg.ofArg arg, decode_of_find (c := ⟨0x71, arg⟩) hfind, rfl, ?_, rfl, rfl, rfl, rfl, rfl,
    rfl, rfl, rfl, rfl, rfl, ?_, ?_⟩
  · simp [AttachArg.ofArg, BitVec.extractLsb'_toNat, Nat.shiftRight_eq_div_pow]
  · simp [AttachArg.ofArg, BitVec.extractLsb'_toNat, Nat.shiftRight_eq_div_pow]
  · simp only [AttachArg.ofArg, BitVec.extractLsb'_toNat, Nat.shiftRight_eq_div_pow]
    exact Nat.mod_eq_of_lt hrid

end Sys2Proof
end

section
/-! PROOFS. The calibration text (R97 to R99): what `parse_ms` accepts, said of the trimmed text, and
that it takes back what `render_ms` writes. -/

namespace Sys2Proof.Machine

/-- The word of a number is answered exactly where the number fits (R98). -/
theorem some_ofNat_iff (n : Nat) (v : Word) :
    (if n < 2 ^ 32 then some (BitVec.ofNat 32 n) else none) = some v ↔ n = v.toNat := by
  constructor
  · intro h
    split at h
    · next hn => rw [← Option.some.inj h, BitVec.toNat_ofNat, Nat.mod_eq_of_lt hn]
    · cases h
  · rintro rfl
    rw [if_pos v.isLt, BitVec.ofNat_toNat, BitVec.setWidth_eq]

/-- R98: the trimmed text is one or more digits, of the value. -/
theorem parseMs_eq_some_iff (txt : List Byte) (v : Word) :
    parseMs txt = some v ↔ trimSpaces txt ≠ [] ∧ (∀ b ∈ trimSpaces txt, isDigit b = true)
      ∧ decimalValue (trimSpaces txt) = v.toNat := by
  have hbad : (trimSpaces txt).isEmpty || !(trimSpaces txt).all isDigit
      ↔ ¬ (trimSpaces txt ≠ [] ∧ ∀ b ∈ trimSpaces txt, isDigit b = true) := by
    simp [or_iff_not_imp_left]
  simp only [parseMs, hbad, ite_not, ← and_assoc]
  split
  · next hds => rw [some_ofNat_iff, and_iff_right hds]
  · next hds => exact ⟨nofun, fun h => absurd h.1 hds⟩

/-- Digits between runs of whitespace parse to their value. -/
theorem parseMs_of_digits {l ds r : List Byte} {v : Word} (hl : ∀ b ∈ l, isSpace b = true)
    (hr : ∀ b ∈ r, isSpace b = true) (hne : ds ≠ []) (hd : ∀ b ∈ ds, isDigit b = true)
    (hv : decimalValue ds = v.toNat) : parseMs (l ++ ds ++ r) = some v := by
  rw [parseMs_eq_some_iff, trimSpaces_digits hl hr hne hd]
  exact ⟨hne, hd, hv⟩

/-- Settles O57: trimming leaves the digits between the runs of whitespace, and what it takes off is
whitespace. -/
theorem parsingAcceptsExactlyTrimmedDigits : Obligations.ParsingAcceptsExactlyTrimmedDigits := by
  intro txt v
  simp only [← isSpace_iff, ← isDigit_iff]
  constructor
  · intro h
    obtain ⟨hne, hd, hv⟩ := (parseMs_eq_some_iff txt v).mp h
    obtain ⟨l, r, htxt, hl, hr⟩ := trimSpaces_parts txt
    exact ⟨l, trimSpaces txt, r, htxt, List.forall_mem_append.mpr ⟨hl, hr⟩, hne, hd, hv⟩
  · rintro ⟨l, ds, r, rfl, hspace, hne, hd, hv⟩
    obtain ⟨hl, hr⟩ := List.forall_mem_append.mp hspace
    exact parseMs_of_digits hl hr hne hd hv

/-- Settles O58: the digits the renderer writes (`decimalDigits_spec`), with no whitespace before them
and one newline after. -/
theorem renderedTextIsShortestAndParsesBack : Obligations.RenderedTextIsShortestAndParsesBack := by
  intro v
  have hfits : v.toNat < 10 ^ 10 := by have := v.isLt; omega
  obtain ⟨ds, htext, hne, hd, hv, hzero⟩ := decimalDigits_spec 10 v.toNat [] hfits (by decide)
  have hrender : renderMs v = ds ++ [0x0A] := by rw [renderMs, htext, List.append_nil]
  refine ⟨⟨ds, hrender, hne, fun b hb => (isDigit_iff b).mp (hd b hb), hv, hzero⟩, ?_⟩
  rw [hrender]
  exact parseMs_of_digits (l := []) (by simp) (by decide) hne hd hv

end Sys2Proof.Machine
end

section
/-! PROOFS. The codec (spec/40): the lookup by position (R115 to R117), the position the scan ends at
(R119, R120) and the requests for which it is a given one (R126), the round trips (R125), and the four
operations (R118, R124). -/

namespace Sys2Proof.Machine

/-! ### Well-formed tables (R7) -/

/-- Under `TableWF` a higher position has another index and a larger duration. -/
theorem index_ne_and_duration_lt_of_wf {t : Table} (h : t.wf = true) (p q : Fin 4) (hpq : p < q) :
    (t.at p).index ≠ (t.at q).index ∧ (t.at p).durationMs.toNat < (t.at q).durationMs.toNat := by
  simp only [Table.wf, Bool.and_eq_true, bne_iff_ne, decide_eq_true_eq] at h
  obtain ⟨⟨⟨⟨⟨⟨⟨⟨h01, h02⟩, h03⟩, h12⟩, h13⟩, h23⟩, d01⟩, d12⟩, d23⟩ := h
  have d02 := d01.trans d12
  revert p q
  simp [forall_position, Table.at, *, d02.trans d23, d12.trans d23]

theorem duration_lt_of_wf {t : Table} (h : t.wf = true) {p q : Fin 4} (hpq : p < q) :
    (t.at p).durationMs.toNat < (t.at q).durationMs.toNat := (index_ne_and_duration_lt_of_wf h p q hpq).2

theorem index_injective_of_wf {t : Table} (h : t.wf = true) : Function.Injective fun p => (t.at p).index :=
  Function.Injective.of_lt_imp_ne fun p q hpq => (index_ne_and_duration_lt_of_wf h p q hpq).1

/-- Four different indices of two bits are all there are. -/
theorem exists_index_eq_of_wf {t : Table} (h : t.wf = true) (i : Index) : ∃ p, (t.at p).index = i :=
  (index_injective_of_wf h).surjective_of_finite BitVec.equivFin.symm.toEquiv i

/-! ### The lookup (R115 to R117) -/

theorem field_of_isLowestBit {m : Word} {k : Nat} (h : IsLowestBit m k) (r : Word) :
    field r m = (r &&& m) >>> k := by rw [field, lsb_of_isLowestBit h]

/-- The first position that has the extracted index gives the duration (D8). -/
theorem durationOf_of_first {r m : Word} {t : Table} {p : Fin 4}
    (hp : (t.at p).index.setWidth 32 = field r m)
    (hlow : ∀ u, u < p → (t.at u).index ≠ (t.at p).index) : durationOf r m t = (t.at p).durationMs := by
  have hne : ∀ u, u < p → ¬ (t.at u).index.setWidth 32 = field r m :=
    fun u hu he => hlow u hu (setWidth_index_inj (he.trans hp.symm))
  rw [durationOf_eq]
  match p with
  | 0 => rw [if_pos hp]
  | 1 => rw [if_neg (hne 0 (by decide)), if_pos hp]
  | 2 => rw [if_neg (hne 0 (by decide)), if_neg (hne 1 (by decide)), if_pos hp]
  | 3 => rw [if_neg (hne 0 (by decide)), if_neg (hne 1 (by decide)), if_neg (hne 2 (by decide)), if_pos hp]

/-- The fallback (R116). -/
theorem durationOf_of_no_index {r m : Word} {t : Table}
    (h : ∀ p, (t.at p).index.setWidth 32 ≠ field r m) : durationOf r m t = field r m := by
  rw [durationOf_eq, if_neg (h 0), if_neg (h 1), if_neg (h 2), if_neg (h 3)]

/-- Under `TableWF` one position alone has the extracted index. -/
theorem durationOf_of_wf {r m : Word} {t : Table} (h : t.wf = true) {p : Fin 4}
    (hp : (t.at p).index.setWidth 32 = field r m) : durationOf r m t = (t.at p).durationMs :=
  durationOf_of_first hp fun _ hu => (index_injective_of_wf h).ne hu.ne

/-- Settles O10: the entry that alone has the index is the first to have it. -/
theorem decodeLooksUpTheField : Obligations.DecodeLooksUpTheField := by
  intro r m t k hk
  rw [← field_of_isLowestBit hk]
  exact ⟨fun p hp honly => durationOf_of_first hp fun u hu => honly u hu.ne, durationOf_of_no_index,
    fun r' h => durationOf_congr h t⟩

/-- Settles O11: `durationOf_of_first`, whatever the positions above hold. -/
theorem decodeTakesTheLowestPositionOfADuplicate :
    Obligations.DecodeTakesTheLowestPositionOfADuplicate := by
  intro r m t k p q hk _ _ hp hlow
  exact durationOf_of_first (hp.trans (field_of_isLowestBit hk r).symm) hlow

/-! ### Fields of two bits (R117) -/

theorem countP_range_run (k n N : Nat) :
    (List.range N).countP (fun i => decide (k ≤ i) && decide (i < k + n)) = min N (k + n) - min N k := by
  induction N with
  | zero => simp
  | succ N ih =>
    simp only [List.range_succ, List.countP_append, ih, List.countP_singleton, Bool.and_eq_true,
      decide_eq_true_eq]
    split <;> omega

theorem maskWidth_runOfOnes {k n : Nat} (h : k + n ≤ 32) : maskWidth (runOfOnes k n) = n := by
  simp only [maskWidth, getLsbD_runOfOnes k n _ h, countP_range_run]
  omega

/-- The field under a run of ones is the bits of the register at the run. -/
theorem field_runOfOnes {k n : Nat} (hn : 2 ≤ n) (h : k + n ≤ 32) (r : Word) :
    field r (runOfOnes k n) = (r.extractLsb' k n).setWidth 32 := by
  rw [field, lsb_runOfOnes hn h]
  apply BitVec.eq_of_getLsbD_eq
  intro j hj
  have hrun : (decide (k ≤ k + j) && decide (k + j < k + n)) = decide (j < n) := by simp
  simp only [BitVec.getLsbD_ushiftRight, BitVec.getLsbD_and, getLsbD_runOfOnes k n _ h, hrun,
    BitVec.getLsbD_setWidth, BitVec.getLsbD_extractLsb', hj, decide_true, Bool.true_and, Bool.and_comm]

/-- Settles O12: the field of two bits is one of the four indices. -/
theorem fallbackNeverFiresOnTwoBitFields : Obligations.FallbackNeverFiresOnTwoBitFields := by
  intro regw r m t hregw hwf hm hwidth
  obtain ⟨k, n, hn, hkn, rfl⟩ := maskWf_shape hm
  have hkn32 : k + n ≤ 32 := by omega
  obtain rfl : n = 2 := (maskWidth_runOfOnes hkn32).symm.trans hwidth
  obtain ⟨p, hp⟩ := exists_index_eq_of_wf hwf (r.extractLsb' k 2)
  exact ⟨p, durationOf_of_wf hwf (by rw [hp, field_runOfOnes hn hkn32])⟩

/-! ### The position the scan ends at (R119, R120) -/

/-- The position kept after looking at position `n` with `p` the best so far: replacement is strict. -/
def keptPosition (req : Word) (t : Table) (n p : Fin 4) : Fin 4 :=
  if errorOf (t.at n) req < errorOf (t.at p) req then n else p

/-- One step of the scan, as a step on positions; the early stop makes no difference (R121). -/
theorem nearestScan_cons_at (req : Word) (t : Table) (n p : Fin 4) (es : List DurationEntry) :
    nearestScan req (t.at n :: es) (some (errorOf (t.at p) req)) (t.at p).index =
      nearestScan req es (some (errorOf (t.at (keptPosition req t n p)) req))
        (t.at (keptPosition req t n p)).index := by
  rw [nearestScan_cons_some, absdiff_eq_errorOf, keptPosition]
  split
  · rfl
  next hle =>
    split
    · next h0 =>
      have hp0 : errorOf (t.at p) req = 0 := by omega
      rw [hp0, nearestScan_zero]
    · rfl

theorem nearest_eq_at_keptPosition (req : Word) (t : Table) :
    nearest req t =
      (t.at (keptPosition req t 0 (keptPosition req t 1 (keptPosition req t 2 3)))).index := by
  rw [nearest_eq_scan, absdiff_eq_errorOf, nearestScan_cons_at, nearestScan_cons_at, nearestScan_cons_at,
    nearestScan_nil]

/-- `p` is the highest position of least error among the positions from `n` on (R120). -/
def NearestFrom (req : Word) (t : Table) (n p : Fin 4) : Prop :=
  n ≤ p ∧ (∀ q, n ≤ q → errorOf (t.at p) req ≤ errorOf (t.at q) req)
    ∧ ∀ q, p < q → errorOf (t.at p) req < errorOf (t.at q) req

theorem nearestFrom_last (req : Word) (t : Table) : NearestFrom req t 3 3 :=
  ⟨le_rfl, fun q hq => by rw [Fin.last_le_iff.mp hq]; rfl, fun q hq => absurd (Fin.le_last q) hq.not_ge⟩

/-- Looking at one position more keeps the closed form. -/
theorem nearestFrom_keptPosition {req : Word} {t : Table} {n n' p : Fin 4} (hn : n'.val = n.val + 1)
    (h : NearestFrom req t n' p) : NearestFrom req t n (keptPosition req t n p) := by
  obtain ⟨hp, hle, hlt⟩ := h
  have hnext : ∀ q, n < q → n' ≤ q := by omega
  unfold keptPosition
  split
  next hless =>
    have hlt' : ∀ q, n < q → errorOf (t.at n) req < errorOf (t.at q) req :=
      fun q hq => hless.trans_le (hle q (hnext q hq))
    refine ⟨le_rfl, fun q hq => ?_, hlt'⟩
    obtain rfl | hq := hq.eq_or_lt
    · exact le_rfl
    · exact (hlt' q hq).le
  next hnot =>
    refine ⟨by omega, fun q hq => ?_, hlt⟩
    obtain rfl | hq := hq.eq_or_lt
    · exact not_lt.mp hnot
    · exact hle q (hnext q hq)

theorem exists_nearestFrom_zero (req : Word) (t : Table) :
    ∃ p, nearest req t = (t.at p).index ∧ NearestFrom req t 0 p :=
  ⟨_, nearest_eq_at_keptPosition req t, nearestFrom_keptPosition (n' := 1) rfl <|
    nearestFrom_keptPosition (n' := 2) rfl <| nearestFrom_keptPosition (n' := 3) rfl <|
    nearestFrom_last req t⟩

/-- Settles O15: the positions are looked at from the last to the first, and each step keeps the closed
form for those looked at (`nearestFrom_keptPosition`). -/
theorem nearestIsTheHighestPositionOfLeastError : Obligations.NearestIsTheHighestPositionOfLeastError := by
  intro req t
  obtain ⟨p, hp, -, hle, hlt⟩ := exists_nearestFrom_zero req t
  exact ⟨p, hp, fun q => hle q (Fin.zero_le q), hlt⟩

/-! ### The requests for which a position is nearest (R126), and the round trip (R125) -/

theorem nearestFrom_unique {req : Word} {t : Table} {n p p' : Fin 4} (h : NearestFrom req t n p)
    (h' : NearestFrom req t n p') : p = p' := by
  obtain ⟨hp, hle, hlt⟩ := h
  obtain ⟨hp', hle', hlt'⟩ := h'
  obtain hpp | rfl | hpp := lt_trichotomy p p'
  · exact absurd (hlt p' hpp) (hle' p hp).not_gt
  · rfl
  · exact absurd (hlt' p hpp) (hle p' hp').not_gt

theorem nearest_eq_of_nearestFrom {req : Word} {t : Table} {p : Fin 4} (h : NearestFrom req t 0 p) :
    nearest req t = (t.at p).index := by
  obtain ⟨p', hnearest, h'⟩ := exists_nearestFrom_zero req t
  rw [hnearest, nearestFrom_unique h h']

/-- Between its midpoints with the lower and with the higher positions a position is the nearest (R126,
doubled). -/
theorem nearest_eq_of_midpoints {req : Word} {t : Table} (hwf : t.wf = true) {p : Fin 4}
    (hmid : ∀ q, (q < p → (t.at q).durationMs.toNat + (t.at p).durationMs.toNat ≤ 2 * req.toNat)
      ∧ (p < q → 2 * req.toNat < (t.at p).durationMs.toNat + (t.at q).durationMs.toNat)) :
    nearest req t = (t.at p).index := by
  have hbelow : ∀ q, q < p → errorOf (t.at p) req ≤ errorOf (t.at q) req := fun q hq => by
    have hdur := duration_lt_of_wf hwf hq
    have hreq := (hmid q).1 hq
    simp only [errorOf]
    omega
  have habove : ∀ q, p < q → errorOf (t.at p) req < errorOf (t.at q) req := fun q hq => by
    have hdur := duration_lt_of_wf hwf hq
    have hreq := (hmid q).2 hq
    simp only [errorOf]
    omega
  refine nearest_eq_of_nearestFrom ⟨Fin.zero_le p, fun q _ => ?_, habove⟩
  obtain hq | rfl | hq := lt_trichotomy q p
  · exact hbelow q hq
  · exact le_rfl
  · exact (habove q hq).le

/-- Settles O16: durations rise with the position, so of the midpoints with all other positions those
with the neighbours bind. -/
theorem nearestThresholdsAreRoundedUpMidpoints : Obligations.NearestThresholdsAreRoundedUpMidpoints := by
  intro req t hwf
  have d01 := duration_lt_of_wf hwf (p := 0) (q := 1) (by decide)
  have d12 := duration_lt_of_wf hwf (p := 1) (q := 2) (by decide)
  have d23 := duration_lt_of_wf hwf (p := 2) (q := 3) (by decide)
  simp only [Table.at] at d01 d12 d23
  refine ⟨fun h => nearest_eq_of_midpoints (p := 0) hwf ?_,
    fun hlow hhigh => nearest_eq_of_midpoints (p := 1) hwf ?_,
    fun hlow hhigh => nearest_eq_of_midpoints (p := 2) hwf ?_,
    fun h => nearest_eq_of_midpoints (p := 3) hwf ?_⟩
  all_goals
    simp only [forall_position, Table.at]
    omega

/-- A table's own duration is nearest to itself: every midpoint lies on its other side (R125). -/
theorem nearest_duration_of_wf {t : Table} (hwf : t.wf = true) (p : Fin 4) :
    nearest (t.at p).durationMs t = (t.at p).index :=
  nearest_eq_of_midpoints hwf fun q =>
    ⟨fun hq => by have := duration_lt_of_wf hwf hq; omega,
      fun hq => by have := duration_lt_of_wf hwf hq; omega⟩

/-- A register that holds a table's index in the field decodes to the entry's duration (R125). -/
theorem durationOf_of_and_eq_shifted {k n : Nat} (hn : 2 ≤ n) (h : k + n ≤ 30) {t : Table}
    (hwf : t.wf = true) {p : Fin 4} {r : Word} (hr : r &&& runOfOnes k n = shifted (t.at p).index (runOfOnes k n)) :
    durationOf r (runOfOnes k n) t = (t.at p).durationMs :=
  durationOf_of_wf hwf (field_of_and_eq_shifted hn h _ r hr).symm

/-- Settles O17: a shifted index stays inside the mask, so the field is the index again. -/
theorem tableEntriesRoundTrip : Obligations.TableEntriesRoundTrip := by
  intro regw m base t p hregw hwf hm hbase
  obtain ⟨k, n, hn, hkn, rfl⟩ := maskWf_shape hm
  have hkn30 : k + n ≤ 30 := hkn.trans hregw
  have hinside := shifted_and_runOfOnes hn hkn30 (t.at p).index
  have hnearest := nearest_duration_of_wf hwf p
  refine ⟨durationOf_of_and_eq_shifted hn hkn30 hwf ?_, hnearest, ?_⟩
  · rw [BitVec.and_or_distrib_right, hbase, hinside]
    exact BitVec.zero_or
  · rw [shiftedNearest, hnearest]
    exact durationOf_of_and_eq_shifted hn hkn30 hwf hinside

/-! ### The four operations (R118, R124) -/

/-- The `CMD` of an instruction with no draw is its row's pattern (R86, R91). -/
theorem encode_of_no_draw {i : Instr} (h : i.draw = false) : encode i = ⟨i.op.pattern, i.arg⟩ := by
  simp [encode, h, byteBit]

theorem exec_decodeOf (r : Word) (g : Setting) (s : State) :
    exec (decodeOf r g) s = decodeSetting g r s := by cases g <;> rfl

theorem exec_encodeOf (req : Word) (g : Setting) (s : State) :
    exec (encodeOf req g) s = encodeSetting g req s := by cases g <;> rfl

/-- Settles O9: the guard is that of `withController`, and `REGW` bits are a remainder. -/
theorem decodeOperation : Obligations.DecodeOperation := by
  intro s g r
  rw [exec_decodeOf, decodeSetting, toReg_eq_ofNat_mod]
  exact ⟨by cases g <;> exact encode_of_no_draw rfl, withController_turned_away,
    fun c hc hp => withController_runs _ hc hp⟩

/-- Settles O13: the guard is that of `withController`. -/
theorem encodeOperation : Obligations.EncodeOperation := by
  intro s g req
  rw [exec_encodeOf, encodeSetting]
  exact ⟨by cases g <;> exact encode_of_no_draw rfl, withController_turned_away,
    fun c hc hp => withController_runs _ hc hp⟩

/-- Settles O14: the model's `lsb` is the lowest bit (`lsb_of_isLowestBit`). -/
theorem encodeShiftsTheNearestIndex : Obligations.EncodeShiftsTheNearestIndex := by
  intro req m t k hk
  rw [shiftedNearest, shifted, lsb_of_isLowestBit hk]

end Sys2Proof.Machine
end

section
/-! PROOFS. Calibration (spec/41): the reads and the writes of a setting (R131, R135), what a read finds
after a write (R138), and the text endpoints over them (R139, R140). -/

namespace Sys2Proof.Machine

/-! ### The operations (R131, R132, R135 to R137) -/

/-- The failure draw of an operation stands in `CMD[3]` (R86). -/
theorem byteBit_three (b : Bool) : byteBit b 3 = if b then 0x08 else 0 := by cases b <;> rfl

theorem exec_calrdOf (tf : Bool) (g : Setting) (s : State) :
    exec (calrdOf tf g) s = calibrationRead g tf s := by cases g <;> rfl

theorem exec_calwrOf (tf : Bool) (req : Word) (g : Setting) (s : State) :
    exec (calwrOf tf req g) s = calibrationWrite g tf req s := by cases g <;> rfl

/-- Settles O20: the guard is that of `withController`, and the read answers by the failure draw. -/
theorem calibrationReadOperation : Obligations.CalibrationReadOperation := by
  intro s g tf
  rw [exec_calrdOf, calibrationRead, ← byteBit_three]
  refine ⟨by cases g <;> rfl, withController_turned_away, fun c hc hp => ?_⟩
  rw [withController_runs _ hc hp, memRead_eq]
  cases tf with
  | false => rfl
  | true => rfl

/-- Settles O21: the guard is that of `withController`, and the update is done or not by the failure
draw. -/
theorem calibrationWriteOperation : Obligations.CalibrationWriteOperation := by
  intro s g tf req
  rw [exec_calwrOf, calibrationWrite, ← byteBit_three]
  refine ⟨by cases g <;> rfl, withController_turned_away, ?_⟩
  rintro c hc hp m v rfl rfl
  rw [withController_runs _ hc hp]
  cases tf with
  | false => rfl
  | true => rfl

/-! ### A read after a write (R138) -/

@[simp] theorem calibrated_params (prof : Profile) (g : Setting) (req : Word) (s : State) :
    (calibrated prof g req s).params = s.params := rfl

@[simp] theorem calibrated_key (prof : Profile) (g : Setting) (req : Word) (s : State) :
    (calibrated prof g req s).key = updatedBits s.key (s.params.mask prof g)
      (shiftedNearest req (s.params.mask prof g) (s.params.table prof g)) := rfl

/-- The duration a read of a setting answers under a profile (R131). -/
def calibrationOf (prof : Profile) (g : Setting) (s : State) : Word :=
  durationOf s.key (s.params.mask prof g) (s.params.table prof g)

/-- R131 where the guard holds and the transport does not fail. -/
theorem exec_calrdOf_accepted {s : State} {c : Controller} (g : Setting)
    (hc : s.controller = some c) (hp : s.phase ≠ .off) :
    exec (calrdOf false g) s = .next (reply .ok (calibrationOf c.profile g s) s) := by
  obtain ⟨-, -, hruns⟩ := calibrationReadOperation s g false
  exact hruns c hc hp

/-- A read finds the guard as the write before it did. -/
theorem exec_calrdOf_calibrated {s : State} {c : Controller} (g g' : Setting) (req : Word)
    (hc : s.controller = some c) (hp : s.phase ≠ .off) :
    exec (calrdOf false g') (calibrated c.profile g req s)
      = .next (reply .ok (calibrationOf c.profile g' (calibrated c.profile g req s))
          (calibrated c.profile g req s)) :=
  exec_calrdOf_accepted g' (by rw [calibrated_controller, hc]) (by rwa [calibrated_phase])

theorem setting_wf_of_profileWf {p : Params} {prof : Profile} (h : p.profileWf prof = true) (g : Setting) :
    (p.table prof g).wf = true ∧ maskWf p.regw (p.mask prof g) = true := by
  simp only [Params.profileWf, Bool.and_eq_true] at h
  obtain ⟨⟨⟨⟨hst, hsd⟩, mst⟩, msd⟩, -⟩ := h
  cases g with
  | st => exact ⟨hst, mst⟩
  | sd => exact ⟨hsd, msd⟩

theorem masks_disjoint_of_ne {p : Params} {prof : Profile} (h : p.profileWf prof = true) {g g' : Setting}
    (hne : g' ≠ g) : p.mask prof g &&& p.mask prof g' = 0 := by
  have hdisj := masks_disjoint_of_profileWf h
  match g, g' with
  | .st, .sd => exact hdisj
  | .sd, .st => rwa [BitVec.and_comm]
  | .st, .st | .sd, .sd => exact absurd rfl hne

/-- The written field is the index of the nearest position, so the lookup gives its duration (R138). -/
theorem calibrationOf_calibrated_same {prof : Profile} {g : Setting} {req : Word} {s : State}
    (h : s.params.profileWf prof = true) {p : Fin 4}
    (hp : nearest req (s.params.table prof g) = ((s.params.table prof g).at p).index) :
    calibrationOf prof g (calibrated prof g req s) = ((s.params.table prof g).at p).durationMs := by
  obtain ⟨htable, hmask⟩ := setting_wf_of_profileWf h g
  obtain ⟨k, n, hn, hkn, hrun⟩ := maskWf_shape hmask
  have hkn30 : k + n ≤ 30 := hkn.trans (regw_le s.params)
  rw [calibrationOf, calibrated_params, calibrated_key, hrun]
  refine durationOf_of_and_eq_shifted hn hkn30 htable ?_
  rw [updatedBits_and_self, shiftedNearest, hp]
  exact shifted_and_runOfOnes hn hkn30 _

/-- A write under a disjoint mask leaves the field as it was. -/
theorem calibrationOf_calibrated_other {prof : Profile} {g g' : Setting} {s : State}
    (h : s.params.mask prof g &&& s.params.mask prof g' = 0) (req : Word) :
    calibrationOf prof g' (calibrated prof g req s) = calibrationOf prof g' s := by
  rw [calibrationOf, calibrated_params, calibrated_key]
  exact durationOf_congr (updatedBits_and_disjoint h) _

/-- Settles O22: the write stores the index of the highest position of least error (R120), which the read
of the same setting looks up; the masks of the two settings are disjoint. -/
theorem calibrationWriteThenRead : Obligations.CalibrationWriteThenRead := by
  intro s c g req hc hp hwf
  obtain ⟨p, hnearest, hleast, hhighest⟩ :=
    nearestIsTheHighestPositionOfLeastError req (s.params.table c.profile g)
  refine ⟨_, _, exec_calwrOf_accepted g req hc hp, calibrated_status .., exec_calrdOf_calibrated g g req hc hp,
    ⟨p, ?_, hleast, hhighest⟩,
    fun g' hne => ⟨_, _, exec_calrdOf_accepted g' hc hp, exec_calrdOf_calibrated g g' req hc hp, ?_⟩⟩
  · rw [reply_resp, calibrationOf_calibrated_same hwf hnearest]
  · rw [reply_resp, reply_resp, calibrationOf_calibrated_other (masks_disjoint_of_ne hwf hne)]

/-! ### The text endpoints (R139, R140) -/

/-- Settles O59: each endpoint's expansion, with the step it makes and the parse it depends on known. -/
theorem textEndpointsExpandToCalibration : Obligations.TextEndpointsExpandToCalibration := by
  intro s t g tf
  refine ⟨fun hread => ?_, fun txt hparse => ?_, fun txt req hparse hwrite => ?_⟩
  · rw [readEndpoint, hread]
  · rw [writeEndpoint, hparse]
  · rw [writeEndpoint, hparse]
    simp only [hwrite]

end Sys2Proof.Machine
end

section
/-! PROOFS. The edge events (spec/42): the edges of the button line (R156, R157), a delivery and its
finish (R158, R159), the handler run whole (R150) and its refinement by the two (R163), and the balance
of the sink, which every step keeps (R162). -/

namespace Sys2Proof.Machine

/-! ### The edges (R156, R157) -/

/-- The latches are the release latch and one bit of `STCLR` (R26, R27): the other bits stay. -/
theorem getLsbD_stclr_setLatch_of_ne {s : State} {j : Nat} (hj : j ≠ s.params.pressLatchBit) (l : Line)
    (b : Bool) : (setLatch l b s).stclr.getLsbD j = s.stclr.getLsbD j := by
  cases l with
  | press => exact (getLsbD_withBit _ _ b j (pressLatchBit_lt s.params)).trans (if_neg hj)
  | release => rfl

theorem getLsbD_stclr_latchEdge_of_ne {s : State} {j : Nat} (hj : j ≠ s.params.pressLatchBit) (l : Line)
    (ld : Bool) : (latchEdge l ld s).stclr.getLsbD j = s.stclr.getLsbD j := by
  unfold latchEdge
  split
  · exact getLsbD_stclr_setLatch_of_ne hj l true
  · split
    · exact getLsbD_stclr_setLatch_of_ne hj l true
    · rfl

/-- A falling edge writes at most `STCLR`. -/
theorem latchEdge_press_eq (ld : Bool) (s : State) :
    latchEdge .press ld s = { s with stclr := (latchEdge .press ld s).stclr } := by
  unfold latchEdge; split <;> [skip; split] <;> rfl

/-- A rising edge writes at most the release latch. -/
theorem latchEdge_release_eq (ld : Bool) (s : State) :
    latchEdge .release ld s = { s with releaseLatch := (latchEdge .release ld s).latch .release } := by
  unfold latchEdge; split <;> [skip; split] <;> rfl

theorem latch_latchEdge_same (l : Line) (ld : Bool) (s : State) :
    (latchEdge l ld s).latch l = (s.latch l || ((s.sub.at l).subscribed && (s.sub.at l).enabled) || ld) := by
  rw [latch_latchEdge, if_pos rfl]

theorem exec_edgeF_accepted {s : State} (hp : s.phase ≠ .off) (hb : s.btn = .high) (ld : Bool) :
    exec (.edgeF ld) s = complete 0 (latchEdge .press ld { s with btn := .low }) :=
  if_neg (not_or.mpr ⟨hp, not_not.mpr hb⟩)

theorem exec_edgeR_accepted {s : State} (hp : s.phase ≠ .off) (hb : s.btn = .low) (ld : Bool) :
    exec (.edgeR ld) s = complete 0 (latchEdge .release ld { s with btn := .high }) :=
  if_neg (not_or.mpr ⟨hp, not_not.mpr hb⟩)

/-- Settles O27: `STCLR` takes what `latchEdge` leaves there, of which each bit is known. -/
theorem fallingEdgeOperation : Obligations.FallingEdgeOperation := by
  intro s ld
  refine ⟨by cases ld <;> rfl, fun h => if_pos h, fun hp hb =>
    ⟨(latchEdge .press ld { s with btn := .low }).stclr, ?_,
      fun j hj => getLsbD_stclr_latchEdge_of_ne (s := { s with btn := .low }) hj .press ld, ?_⟩⟩
  · rw [exec_edgeF_accepted hp hb, latchEdge_press_eq]
    rfl
  · have hlatch := latch_latchEdge_same .press ld { s with btn := .low }
    rwa [latch_press, State.pressLatch, latchEdge_params] at hlatch

/-- Settles O28: the release latch takes what `latchEdge` leaves there. -/
theorem risingEdgeOperation : Obligations.RisingEdgeOperation := by
  intro s ld
  refine ⟨by cases ld <;> rfl, fun h => if_pos h, fun hp hb => ?_⟩
  rw [exec_edgeR_accepted hp hb, latchEdge_release_eq, latch_latchEdge_same]
  rfl

/-! ### A delivery (R158, R160) -/

theorem irqsOn_iff (ph : Phase) : ph.irqsOn = true ↔ ph ∈ [Phase.run, .suspended, .irqResumed] := by
  cases ph <;> decide

/-- The guard of `DELIVER.L`, part by part. -/
theorem deliverable_iff (s : State) (l : Line) :
    s.deliverable l = true ↔ s.active = true ∧ (s.sub.at l).subscribed = true
      ∧ (s.sub.at l).enabled = true ∧ s.latch l = true ∧ s.inflight.at l = .none
      ∧ s.phase ∈ [Phase.run, .suspended, .irqResumed] := by
  simp only [State.deliverable, Bool.and_eq_true, beq_iff_eq, irqsOn_iff, and_assoc]

@[simp] theorem enterHandler_inflight (l : Line) (s : State) :
    (enterHandler l s).inflight = s.inflight.set l .needSync := by
  simp [enterHandler]

theorem exec_deliverOf (l : Line) (s : State) : exec (deliverOf l) s = deliver l s := by cases l <;> rfl

theorem exec_deliverOf_accepted {s : State} {l : Line} (h : s.deliverable l = true) :
    exec (deliverOf l) s = complete 0 (enterHandler l s) := (exec_deliverOf l s).trans (if_pos h)

theorem exec_deliverOf_refused {s : State} {l : Line} (h : ¬ s.deliverable l = true) :
    exec (deliverOf l) s = refuse s := (exec_deliverOf l s).trans (if_neg h)

/-- Settles O29: the parts of the guard are those of `deliverable_iff`, and of `STCLR` entering the press
handler clears the press latch alone. -/
theorem deliverOperation : Obligations.DeliverOperation := by
  intro s
  refine ⟨rfl, rfl, fun ha hs he hl hf hp => ?_, fun ha hs he hl hf hp => ?_, fun l h => ?_⟩
  · have hd : s.deliverable .press = true := (deliverable_iff s .press).mpr ⟨ha, hs, he, hl, hf, hp⟩
    exact ⟨(setLatch .press false s).stclr, exec_deliverOf_accepted hd, pressLatch_setPressLatch false s,
      fun j hj => getLsbD_stclr_setLatch_of_ne hj .press false⟩
  · have hd : s.deliverable .release = true :=
      (deliverable_iff s .release).mpr ⟨ha, hs, he, hl, hf, hp⟩
    exact exec_deliverOf_accepted hd
  · refine exec_deliverOf_refused fun hd => ?_
    obtain ⟨ha, hs, he, hl, hf, hp⟩ := (deliverable_iff s l).mp hd
    simp [ha, hs, he, hl, hf, hp] at h

/-! ### A finish (R159) -/

theorem exec_finishOf (l : Line) (s : State) : exec (finishOf l) s = finish l s := by cases l <;> rfl

theorem exec_finishOf_accepted {s : State} {l : Line} (hf : s.inflight.at l = .needSync)
    (hp : s.phase ≠ .off) : exec (finishOf l) s = complete 0 (returnHandler l s) :=
  (exec_finishOf l s).trans (if_pos ⟨hf, hp⟩)

theorem exec_finishOf_refused {s : State} {l : Line} (h : s.inflight.at l ≠ .needSync ∨ s.phase = .off) :
    exec (finishOf l) s = refuse s :=
  (exec_finishOf l s).trans (if_neg fun ⟨hf, hp⟩ => h.elim (absurd hf) hp)

/-- Settles O30: the two branches of `finish`, at each line. -/
theorem finishOperation : Obligations.FinishOperation :=
  fun _ => ⟨rfl, rfl, exec_finishOf_accepted (l := .press), exec_finishOf_accepted (l := .release),
    fun _ => exec_finishOf_refused⟩

/-! ### The handler run whole (R150 to R154) -/

theorem invokeHandler_eq (l : Line) (s : State) :
    invokeHandler l s = .next (
      if s.inflight.at l = .none then
        { s with sink := s.sink ++ [keyEventOf l, .sync], resp := ⟨.ok, 0⟩ }
      else { s with resp := ⟨.refused, 0⟩ }) := by
  unfold invokeHandler
  split
  · simp [complete, reply, runHandler, emit]
  · rfl

theorem exec_irq_refused {s : State} (h : s.active = false ∨ s.phase = .off) (id : Word) :
    exec (.irq id) s = refuse s := by
  show execIrq id s = refuse s
  unfold execIrq
  split
  · rfl
  next ids hids =>
    have hp : s.phase = .off := h.resolve_left (by simp [State.active, hids])
    rw [if_pos hp]

/-- R150 where the guard holds: the press identifier is compared first. -/
theorem exec_irq_of_active {s : State} {ids : IrqIds} (hids : s.irqIds = some ids) (hp : s.phase ≠ .off)
    (id : Word) :
    exec (.irq id) s = if id = ids.press then invokeHandler .press s
      else if id = ids.release then invokeHandler .release s else complete 0 s := by
  show execIrq id s = _
  simp only [execIrq, hids, hp, if_false]

/-- Settles O26: the identifier names the press line, the release line or neither, and an invocation is
run or refused (`invokeHandler_eq`). -/
theorem irqRunsTheHandler : Obligations.IrqRunsTheHandler := by
  intro s id
  refine ⟨encode_of_no_draw rfl, fun h => exec_irq_refused h id, fun ids hids hp => ?_⟩
  rw [exec_irq_of_active hids hp, invokeHandler_eq, invokeHandler_eq]
  split
  · rfl
  · split <;> rfl

/-! ### A delivery followed by its finish (R163) -/

/-- `IRQ` with a line's identifier is an invocation of the line's handler. -/
theorem exec_irq_id_of_line {s : State} {ids : IrqIds} (hids : s.irqIds = some ids)
    (hne : ids.press ≠ ids.release) (hp : s.phase ≠ .off) {l : Line} (hf : s.inflight.at l = .none) :
    exec (.irq (if l = .press then ids.press else ids.release)) s = complete 0 (runHandler l s) := by
  have hrun : invokeHandler l s = complete 0 (runHandler l s) := if_pos hf
  rw [exec_irq_of_active hids hp, ← hrun]
  cases l with
  | press => exact if_pos rfl
  | release => exact (if_neg hne.symm).trans (if_pos rfl)

@[simp] theorem latch_reply (st : Status) (res : Word) (s : State) (l : Line) :
    (reply st res s).latch l = s.latch l := by cases l <;> rfl

@[simp] theorem latch_runHandler (l l' : Line) (s : State) : (runHandler l s).latch l' = s.latch l' := by
  cases l' <;> rfl

/-- A response is overwritten by the next; the end of the handler does not read it. -/
theorem reply_returnHandler_reply (st st' : Status) (res res' : Word) (l : Line) (s : State) :
    reply st res (returnHandler l (reply st' res' s)) = reply st res (returnHandler l s) := rfl

theorem setInflight_of_at {s : State} {l : Line} {f : Inflight} (h : s.inflight.at l = f) :
    setInflight l f s = s := by
  subst h
  cases l <;> rfl

/-- Entering the handler and returning from it is running it whole with the latch cleared. -/
theorem returnHandler_enterHandler {s : State} {l : Line} (h : s.inflight.at l = .none) :
    returnHandler l (enterHandler l s) = runHandler l (setLatch l false s) := by
  calc returnHandler l (enterHandler l s)
      = setInflight l .none (runHandler l (setLatch l false s)) := by cases l <;> rfl
    _ = runHandler l (setLatch l false s) := setInflight_of_at (by simpa using h)

/-- Settles O31: the refinement is `returnHandler_enterHandler`, and clearing a latch writes nothing but
the latches. -/
theorem deliverThenFinishIsIrqAndLatchClear : Obligations.DeliverThenFinishIsIrqAndLatchClear := by
  intro s l ids hids hne hd
  obtain ⟨-, -, -, -, hf, hon⟩ := (deliverable_iff s l).mp hd
  have hp : s.phase ≠ .off := fun hoff => by simp [hoff] at hon
  have hentered : (reply .ok 0 (enterHandler l s)).inflight.at l = .needSync := by
    rw [reply_inflight, enterHandler_inflight, at_set, if_pos rfl]
  have hpend : (reply .ok 0 (enterHandler l s)).phase ≠ .off := by simpa using hp
  refine ⟨reply .ok 0 (enterHandler l s), reply .ok 0 (runHandler l (setLatch l false s)),
    reply .ok 0 (runHandler l s), exec_deliverOf_accepted hd, ?_, exec_irq_id_of_line hids hne hp hf,
    ?_, ?_, ?_, ?_, ?_⟩
  · rw [exec_finishOf_accepted hentered hpend, complete, reply_returnHandler_reply,
      returnHandler_enterHandler hf]
  · cases l <;> simp [keyEventOf]
  · rw [latch_reply, latch_runHandler, latch_setLatch, if_pos rfl]
  · intro l' hl'
    rw [latch_reply, latch_runHandler, latch_setLatch, if_neg hl', latch_reply, latch_runHandler]
  · intro j hj
    rw [reply_stclr, runHandler_stclr, getLsbD_stclr_setLatch_of_ne hj, reply_stclr, runHandler_stclr]
  · cases l <;> rfl

/-! ### The balance of the sink (R162) -/

/-- The balance reads the sink and the handlers in progress only. -/
theorem sinkBalanced_congr {s t : State} (h : SinkBalanced s) (hsink : t.sink = s.sink)
    (hinflight : t.inflight = s.inflight) : SinkBalanced t := by
  rw [SinkBalanced, State.inflightCount, hsink, hinflight]
  exact h

/-- Appended events keep the balance if the `KEY` events among them exceed the `SYNC` events by as many
as there are more handlers in progress. -/
theorem sinkBalanced_of_append {s t : State} (h : SinkBalanced s) {es : List Event}
    (hsink : t.sink = s.sink ++ es)
    (hcount : es.countP (fun e => e.isKey) + s.inflightCount
      = es.countP (fun e => !e.isKey) + t.inflightCount) : SinkBalanced t := by
  rw [SinkBalanced] at h
  rw [SinkBalanced, hsink, List.countP_append, List.countP_append]
  omega

/-- Giving a line a new status exchanges what it owed for what it owes. -/
theorem inflightCount_of_set {s t : State} {l : Line} {f : Inflight}
    (h : t.inflight = s.inflight.set l f) :
    t.inflightCount + (s.inflight.at l).owed = s.inflightCount + f.owed := by
  rw [State.inflightCount, State.inflightCount, h]
  cases l with
  | press => simp only [set_press, at_press]; omega
  | release => simp only [set_release, at_release]; omega

theorem sinkBalanced_runHandler {s : State} (h : SinkBalanced s) (l : Line) :
    SinkBalanced (runHandler l s) :=
  sinkBalanced_of_append h (es := [keyEventOf l, .sync]) (by simp) (by simp [State.inflightCount])

theorem sinkBalanced_enterHandler {s : State} (h : SinkBalanced s) {l : Line}
    (hf : s.inflight.at l = .none) : SinkBalanced (enterHandler l s) := by
  have hcount := inflightCount_of_set (enterHandler_inflight l s)
  rw [hf] at hcount
  exact sinkBalanced_of_append h (enterHandler_sink l s) (by simpa [add_comm] using hcount.symm)

theorem sinkBalanced_returnHandler {s : State} (h : SinkBalanced s) {l : Line}
    (hf : s.inflight.at l = .needSync) : SinkBalanced (returnHandler l s) := by
  have hcount := inflightCount_of_set (returnHandler_inflight s l)
  rw [hf] at hcount
  exact sinkBalanced_of_append h (returnHandler_sink s l) (by simpa [add_comm] using hcount.symm)

/-- Only the handler and `RESET` write the sink or the handlers in progress. -/
theorem sinkBalanced_of_effect {i : Instr} {s t : State} (h : SinkBalanced s) (he : Effect i s t) :
    SinkBalanced t := by
  cases he with
  | handled l => exact sinkBalanced_congr (sinkBalanced_runHandler h l) rfl rfl
  | delivered l _ hd =>
    obtain ⟨-, -, -, -, hf, -⟩ := (deliverable_iff s l).mp hd
    exact sinkBalanced_congr (sinkBalanced_enterHandler h hf) rfl rfl
  | finished l _ hf => exact sinkBalanced_congr (sinkBalanced_returnHandler h hf) rfl rfl
  | reset => rfl
  | resumedNoirq =>
    exact sinkBalanced_congr h (by simp [apply_ite State.sink]) (by simp [apply_ite State.inflight])
  | _ => exact sinkBalanced_congr h (by simp) (by simp)

/-- Settles O32: taking the command off the port leaves the balance, and so does what follows, a reserved
command's answer or an instruction's effect. -/
theorem stepKeepsTheSinkBalanced : Obligations.StepKeepsTheSinkBalanced := by
  intro s t h hstep
  obtain ⟨c, rest, -, ⟨e, -, rfl⟩ | ⟨i, -, hx⟩⟩ := step_cases hstep
  · exact sinkBalanced_congr h rfl rfl
  · have htaken : SinkBalanced { s with pending := rest } := h
    exact sinkBalanced_of_effect htaken (effect_of_exec hx)

end Sys2Proof.Machine
end

section
/-! PROOFS. The power-state arbiter (spec/43): `WAKEARM` (R172) and the six moves of the phase machine
(R171, R174 to R184), when `wake_req` is raised (R186), that `PH_OFF` refuses everything (R185), and what
a suspend and its resume do to the subscriptions (R175, R183) and to the wake press (R188). -/

namespace Sys2Proof.Machine

/-! ### The operations (R172, R174, R178, R180 to R182, R184) -/

theorem exec_wakearm_refused {s : State} (h : s.active = false ∨ s.wakeCapable = false ∨ s.phase ≠ .run)
    (b : Bool) : exec (.wakearm b) s = refuse s := by
  refine if_neg fun hguard => ?_
  simp only [Bool.and_eq_true, beq_iff_eq] at hguard
  obtain ⟨⟨ha, hc⟩, hp⟩ := hguard
  simp [ha, hc, hp] at h

/-- Settles O34: the two branches of the guard. -/
theorem wakearmOperation : Obligations.WakearmOperation :=
  fun _ b => ⟨by cases b <;> rfl, fun h => exec_wakearm_refused h b,
    fun ha hc hp => if_pos (by simp [ha, hc, hp])⟩

/-- The two branches of an operation guarded as R171 says. -/
theorem exec_move_cases {s u : State} {i : Instr} {ph : Phase}
    (hx : exec i s = if s.mayMoveFrom ph then complete 0 u else refuse s) :
    (s.attached = false ∨ s.phase ≠ ph ∨ s.inflight.press ≠ .none ∨ s.inflight.release ≠ .none →
        exec i s = .next { s with resp := ⟨.refused, 0⟩ })
      ∧ (s.attached = true → s.phase = ph → s.inflight.press = .none → s.inflight.release = .none →
        exec i s = .next { u with resp := ⟨.ok, 0⟩ }) :=
  ⟨fun h => hx.trans (if_neg (not_mayMoveFrom h)),
    fun ha hp h1 h2 => hx.trans (if_pos (mayMoveFrom_of ha hp h1 h2))⟩

/-- R174 on both lines together. -/
theorem suspendSubs_sub (s : State) :
    (suspendSubs s).sub = if s.active
      then if s.wakeArmed
        then ⟨{ s.sub.press with wakeMarked := true }, { s.sub.release with wakeMarked := true }⟩
        else ⟨{ s.sub.press with enabled := false }, { s.sub.release with enabled := false }⟩
      else s.sub := by
  unfold suspendSubs; split <;> [split; skip] <;> rfl

/-- R182 on both lines together. -/
theorem resumeSubs_sub (s : State) :
    (resumeSubs s).sub = if s.active
      then if s.wakeArmed
        then ⟨{ s.sub.press with wakeMarked := false }, { s.sub.release with wakeMarked := false }⟩
        else ⟨{ s.sub.press with enabled := true }, { s.sub.release with enabled := true }⟩
      else s.sub := by
  unfold resumeSubs; split <;> [split; skip] <;> rfl

theorem exec_suspend (s : State) :
    exec .suspend s = if s.mayMoveFrom .run
      then complete 0 (setPhase .suspended { s with sub := (suspendSubs s).sub }) else refuse s := by
  rw [← suspendSubs_eq]
  rfl

theorem exec_shutdown (s : State) :
    exec .shutdown s = if s.mayMoveFrom .run
      then complete 0 (setPhase .off { s with sub := (suspendSubs s).sub }) else refuse s := by
  rw [← suspendSubs_eq]
  rfl

theorem exec_resume (s : State) :
    exec .resume s = if s.mayMoveFrom .irqResumed
      then complete 0 (setPhase .run { s with sub := (resumeSubs s).sub }) else refuse s := by
  rw [← resumeSubs_eq]
  rfl

theorem exec_irqoff (s : State) :
    exec .irqoff s = if s.mayMoveFrom .suspended then complete 0 (setPhase .noirq s) else refuse s := rfl

theorem exec_irqon (s : State) :
    exec .irqon s = if s.mayMoveFrom .noirqResumed then complete 0 (setPhase .irqResumed s) else refuse s :=
  rfl

/-- Settles O35: the suspend procedure writes the subscriptions alone. -/
theorem suspendOperation : Obligations.SuspendOperation := by
  intro s
  rw [← suspendSubs_sub]
  exact ⟨rfl, exec_move_cases (exec_suspend s)⟩

/-- Settles O40: as `SUSPEND`, with `PH_OFF` for `PH_SUSPENDED`. -/
theorem shutdownOperation : Obligations.ShutdownOperation := by
  intro s
  rw [← suspendSubs_sub]
  exact ⟨rfl, exec_move_cases (exec_shutdown s)⟩

/-- Settles O39: the resume procedure writes the subscriptions alone. -/
theorem resumeOperation : Obligations.ResumeOperation := by
  intro s
  rw [← resumeSubs_sub]
  exact ⟨rfl, exec_move_cases (exec_resume s)⟩

/-- Settles O36: a move that writes the phase alone. -/
theorem irqoffOperation : Obligations.IrqoffOperation :=
  fun s => ⟨rfl, exec_move_cases (exec_irqoff s)⟩

/-- Settles O38: a move that writes the phase alone. -/
theorem irqonOperation : Obligations.IrqonOperation :=
  fun s => ⟨rfl, exec_move_cases (exec_irqon s)⟩

theorem clearWakeLatch_eq (tf : Bool) (s : State) :
    clearWakeLatch tf s = { s with stclr := (clearWakeLatch tf s).stclr } := by
  unfold clearWakeLatch; split <;> [skip; split] <;> rfl

section
variable (tf : Bool) (s : State)

@[simp] theorem clearWakeLatch_controller : (clearWakeLatch tf s).controller = s.controller := by
  rw [clearWakeLatch_eq]
@[simp] theorem clearWakeLatch_attached : (clearWakeLatch tf s).attached = s.attached := by
  simp [State.attached]
@[simp] theorem clearWakeLatch_wakeArmed : (clearWakeLatch tf s).wakeArmed = s.wakeArmed := by
  rw [clearWakeLatch_eq]
@[simp] theorem clearWakeLatch_sink : (clearWakeLatch tf s).sink = s.sink := by
  rw [clearWakeLatch_eq]
@[simp] theorem clearWakeLatch_inflight : (clearWakeLatch tf s).inflight = s.inflight := by
  rw [clearWakeLatch_eq]
@[simp] theorem clearWakeLatch_quiet : (clearWakeLatch tf s).quiet = s.quiet := by
  simp [State.quiet]
@[simp] theorem clearWakeLatch_params : (clearWakeLatch tf s).params = s.params := by
  rw [clearWakeLatch_eq]

end

theorem clearWakeLatch_of_controller {s : State} {c : Controller} (hc : s.controller = some c) (tf : Bool) :
    clearWakeLatch tf s = if c.latchClear && !tf then setLatch .press false s else s := by
  simp only [clearWakeLatch, hc]
  rfl

/-- The bits of `STCLR` after the latch-clear step: the press latch is cleared or kept, the others stay. -/
theorem getLsbD_stclr_clearWakeLatch {s : State} {c : Controller} (hc : s.controller = some c) (tf : Bool) :
    (∀ j, j ≠ s.params.pressLatchBit → (clearWakeLatch tf s).stclr.getLsbD j = s.stclr.getLsbD j)
      ∧ (clearWakeLatch tf s).stclr.getLsbD s.params.pressLatchBit
          = (s.pressLatch && !(c.latchClear && !tf)) := by
  rw [clearWakeLatch_of_controller hc]
  split
  next hclear =>
    have hlatch : (setLatch .press false s).stclr.getLsbD s.params.pressLatchBit = false :=
      pressLatch_setPressLatch false s
    exact ⟨fun j hj => getLsbD_stclr_setLatch_of_ne hj .press false, by simp [hclear, hlatch]⟩
  next hkeep => exact ⟨fun _ _ => rfl, by simp [hkeep, State.pressLatch]⟩

theorem exec_resumeNoirq (tf : Bool) (s : State) :
    exec (.resumeNoirq tf) s = if s.mayMoveFrom .noirq
      then complete 0 (setPhase .noirqResumed { s with stclr := (clearWakeLatch tf s).stclr })
      else refuse s := by
  rw [← clearWakeLatch_eq]
  rfl

/-- Settles O37: `STCLR` takes what the latch-clear step leaves there, of which each bit is known. -/
theorem resumeNoirqOperation : Obligations.ResumeNoirqOperation := by
  intro s tf
  obtain ⟨hrefused, haccepted⟩ := exec_move_cases (exec_resumeNoirq tf s)
  refine ⟨by cases tf <;> rfl, hrefused, fun c hc hp h1 h2 => ⟨(clearWakeLatch tf s).stclr, ?_, ?_⟩⟩
  · exact haccepted ((attached_iff s).mpr ⟨c, hc⟩) hp h1 h2
  · exact getLsbD_stclr_clearWakeLatch hc tf

/-! ### The phase machine (R171, R185) -/

/-- The phase changes by a move of the table, whose guard held, and by `RESET`. -/
theorem phase_of_effect {i : Instr} {s t : State} (he : Effect i s t) :
    t.phase = s.phase ∨ i = .reset ∨ (s.mayMoveFrom s.phase = true ∧ phaseMove i s.phase t.phase) := by
  cases he with
  | suspended hi hm | shutDown hi hm | irqsOff hi hm | resumedNoirq _ _ hi hm | irqsOn hi hm
  | resumed hi hm =>
    have hp := (of_mayMoveFrom hm).2.1
    exact .inr (.inr ⟨hp ▸ hm, by simp [phaseMove, hi, hp]⟩)
  | reset hi => exact .inr (.inl hi)
  | _ => exact .inl (by simp)

/-- Settles O41: every change of the phase but that of `RESET` is a move whose guard held. -/
theorem phaseMovesOnlyByTheTable : Obligations.PhaseMovesOnlyByTheTable := by
  intro i s t hx hne hreset
  obtain ⟨hm, hmove⟩ := ((phase_of_effect (effect_of_exec hx)).resolve_left hne).resolve_left hreset
  obtain ⟨ha, -, hq⟩ := of_mayMoveFrom hm
  exact ⟨hmove, ha, hq⟩

theorem not_mayMoveFrom_of_off {s : State} (hp : s.phase = .off) {ph : Phase} (hph : ph ≠ .off) :
    ¬ s.mayMoveFrom ph = true :=
  not_mayMoveFrom (.inr (.inl fun h => hph (h.symm.trans hp)))

/-- Settles O42: the guard of each instruction shuts `PH_OFF` out, that of `ATTACH` by the invariant, which
says that a block in `PH_OFF` is attached (R39). -/
theorem poweredOffRefusesAllButReset : Obligations.PoweredOffRefusesAllButReset := by
  intro i s h hp hreset
  have hmove {ph : Phase} (hph : ph ≠ .off) := not_mayMoveFrom_of_off hp hph
  cases i with
  | decodeSt | decodeSd | encodeSt | encodeSd | calrdSt | calrdSd | calwrSt | calwrSd =>
    exact withController_turned_away (.inr hp)
  | irq id => exact exec_irq_refused (.inr hp) id
  | wakearm b => exact exec_wakearm_refused (.inr (.inr (by simp [hp]))) b
  | suspend | irqoff | resumeNoirq | irqon | resume | shutdown | detach => exact if_neg (hmove (by decide))
  | gate => exact if_pos hp
  | attach => exact if_pos (h.phase_attached (by simp [hp]))
  | edgeF | edgeR => exact if_pos (.inl hp)
  | deliverP => exact exec_deliverOf_refused (l := .press) (by simp [deliverable_iff, hp])
  | deliverR => exact exec_deliverOf_refused (l := .release) (by simp [deliverable_iff, hp])
  | finishP => exact exec_finishOf_refused (l := .press) (.inr hp)
  | finishR => exact exec_finishOf_refused (l := .release) (.inr hp)
  | reset => exact absurd rfl hreset

/-! ### The wake request (R186) -/

theorem exists_line_iff (p : Line → Prop) : (∃ l, p l) ↔ p .press ∨ p .release :=
  ⟨fun ⟨l, hl⟩ => by cases l <;> simp [hl], fun h => h.elim (⟨_, ·⟩) (⟨_, ·⟩)⟩

theorem wakeReq_iff (s : State) :
    s.wakeReq = true ↔ s.phase = .noirq ∧ ∃ l, s.latch l = true ∧ (s.sub.at l).subscribed = true
      ∧ (s.sub.at l).enabled = true ∧ (s.sub.at l).wakeMarked = true := by
  simp only [State.wakeReq, State.wakes, Bool.and_eq_true, Bool.or_eq_true, beq_iff_eq, exists_line_iff,
    and_assoc]

/-- Settles O45: a wake-marked line is marked while armed only (R39). -/
theorem wakeRequestNeedsArming : Obligations.WakeRequestNeedsArming := by
  intro s h hreq
  obtain ⟨hp, l, hlatch, -, henabled, hmarked⟩ := (wakeReq_iff s).mp hreq
  obtain ⟨-, harmed⟩ := h.marked_armed l hmarked
  exact ⟨harmed, hp, l, hlatch, henabled, hmarked⟩

/-! ### An unarmed suspend (R175) -/

/-- What an unarmed `SUSPEND` leaves, and keeps until `RESUME`: no line is enabled (R174). -/
structure Silenced (s : State) : Prop where
  attached : s.attached = true
  not_running : s.phase ≠ .run
  disabled : ∀ l, (s.sub.at l).enabled = false

theorem silenced_of_suspend {s t : State} (ha : s.active = true) (harmed : s.wakeArmed = false)
    (h : Accepts s .suspend t) : Silenced t := by
  obtain ⟨hm, rfl⟩ := of_accepts_move h (ph := .run) rfl
  exact ⟨by simpa using (of_mayMoveFrom hm).1, by simp,
    fun l => by simp [suspendSubs_sub_at, ha, harmed]⟩

/-- The subscriptions are written by moves from `PH_RUN`, by `ATTACH` of a detached block, by `RESUME` and
by `RESET`. -/
theorem silenced_of_effect {i : Instr} {s t : State} (h : Silenced s) (he : Effect i s t)
    (hresume : i ≠ .resume) (hreset : i ≠ .reset) : Silenced t := by
  obtain ⟨ha, hp, hdisabled⟩ := h
  cases he with
  | suspended _ hm | shutDown _ hm | detached _ hm => exact absurd (of_mayMoveFrom hm).2.1 hp
  | attachedInactive a _ hd | attachedActive a _ hd => simp [ha] at hd
  | resumed hi => exact absurd hi hresume
  | reset hi => exact absurd hi hreset
  | irqsOff | irqsOn => exact ⟨ha, by simp, hdisabled⟩
  | resumedNoirq =>
    exact ⟨by simpa [apply_ite State.attached] using ha, by simp,
      by simpa [apply_ite State.sub] using hdisabled⟩
  | _ => exact ⟨by simpa [State.attached] using ha, by simpa using hp, by simpa using hdisabled⟩

theorem not_deliverable_of_disabled {s : State} {l : Line} (h : (s.sub.at l).enabled = false) :
    ¬ s.deliverable l = true := by
  simp [deliverable_iff, h]

/-- Settles O46: no allowed step enables a line again, and a disabled line is not delivered (R158). -/
theorem unarmedSuspendSilencesBothLines : Obligations.UnarmedSuspendSilencesBothLines := by
  refine ⟨fun s a b l ha harmed hsuspend hrun => ?_, fun s l h ha harmed hp => ?_⟩
  · have hsilenced : Silenced b :=
      acceptedRun_keeps Silenced hrun (silenced_of_suspend ha harmed hsuspend) fun i t u hi ht hx => by
        simp only [Bool.and_eq_true, bne_iff_ne] at hi
        obtain ⟨hresume, hreset⟩ := hi
        exact silenced_of_effect ht (effect_of_exec hx.1) hresume hreset
    exact exec_deliverOf_refused (not_deliverable_of_disabled (hsilenced.disabled l))
  · obtain ⟨henabled, -⟩ := h.not_running hp ha l
    exact exec_deliverOf_refused (not_deliverable_of_disabled (henabled.trans harmed))

/-! ### Suspend and resume (R183, R187) -/

/-- The instructions that may write the device, the identifiers, `wake_armed` or `KEY` (R29, R31, R135). -/
def writesDevice : Instr → Bool
  | .calwrSt _ _ | .calwrSd _ _ | .wakearm _ | .attach _ | .detach | .reset => true
  | _ => false

theorem not_writesDevice_of_isEdgeEvent {i : Instr} (h : isEdgeEvent i = true) :
    (!writesDevice i) = true := by
  cases i with
  | edgeF | edgeR | deliverP | deliverR | finishP | finishR => rfl
  | _ => cases h

/-- What R183 and R187 say is kept. -/
structure DeviceKeeps (s t : State) : Prop where
  controller : t.controller = s.controller
  irqIds : t.irqIds = s.irqIds
  wakeArmed : t.wakeArmed = s.wakeArmed
  key : t.key = s.key

theorem DeviceKeeps.trans {s t u : State} (h : DeviceKeeps s t) (h' : DeviceKeeps t u) : DeviceKeeps s u :=
  ⟨h'.controller.trans h.controller, h'.irqIds.trans h.irqIds, h'.wakeArmed.trans h.wakeArmed,
    h'.key.trans h.key⟩

theorem deviceKeeps_of_effect {i : Instr} {s t : State} (he : Effect i s t)
    (hi : (!writesDevice i) = true) : DeviceKeeps s t := by
  cases he with
  | written g _ _ _ _ hw =>
    subst hw
    cases g <;> cases hi
  | armed _ hw | attachedInactive _ hw | attachedActive _ hw | detached hw | reset hw =>
    subst hw
    cases hi
  | resumedNoirq tf c =>
    constructor <;> simp [apply_ite State.controller, apply_ite State.irqIds, apply_ite State.wakeArmed,
      apply_ite State.key]
  | _ => constructor <;> simp

theorem AcceptedRun.append {allowed allowed' : Instr → Bool} {s t u : State}
    (h : AcceptedRun allowed s t) (h' : AcceptedRun allowed' t u)
    (hall : ∀ i, allowed' i = true → allowed i = true) : AcceptedRun allowed s u := by
  induction h' with
  | refl => exact h
  | snoc v w i _ hi hx ih => exact .snoc v w i ih (hall i hi) hx

/-- In `PH_RUN` both lines of an active controller are as setup left them (R208). -/
theorem sub_of_inv_running {s : State} (h : Inv s) (ha : s.active = true) (hp : s.phase = .run) :
    s.sub = ⟨.fresh, .fresh⟩ := by
  have hat (l : Line) : s.sub.at l = .fresh := by rw [sub_at_of_inv h l, ha, hp]; rfl
  calc s.sub = ⟨s.sub.at .press, s.sub.at .release⟩ := rfl
    _ = ⟨.fresh, .fresh⟩ := by rw [hat, hat]

/-- Settles O43: the whole is one run of instructions that leave the device alone; it keeps the invariant,
which fixes the subscriptions in `PH_RUN`, where it begins and ends. -/
theorem suspendThenResumeRestoresSubscriptions : Obligations.SuspendThenResumeRestoresSubscriptions := by
  intro s a a' b b' c c' d d' t tf h ha hsuspend hab hirqoff hbc hresumeNoirq hcd hirqon hde hresume
  have hrun : AcceptedRun (fun i => !writesDevice i) s t := by
    have hedges {u v w : State} (hr : AcceptedRun (fun i => !writesDevice i) u v) (he : EdgeRun v w) :=
      hr.append he fun _ => not_writesDevice_of_isEdgeEvent
    have hsuspended := hedges (.snoc _ _ _ .refl rfl hsuspend) hab
    have hasleep := hedges (.snoc _ _ _ hsuspended rfl hirqoff) hbc
    have hresumed := hedges (.snoc _ _ _ hasleep rfl hresumeNoirq) hcd
    have hawake := hedges (.snoc _ _ _ hresumed rfl hirqon) hde
    exact .snoc _ _ _ hawake rfl hresume
  have ht : Inv t := acceptedRun_keeps Inv hrun h fun _ _ _ _ hi hx => inv_of_exec hi hx.1
  obtain ⟨hcontroller, hids, harmed, hkey⟩ : DeviceKeeps s t :=
    acceptedRun_keeps (DeviceKeeps s) hrun ⟨rfl, rfl, rfl, rfl⟩ fun _ _ _ hi hk hx =>
      hk.trans (deviceKeeps_of_effect (effect_of_exec hx.1) hi)
  have hs : s.phase = .run := (of_mayMoveFrom (of_accepts_move hsuspend rfl).1).2.1
  have hp : t.phase = .run := by rw [(of_accepts_move hresume rfl).2]; rfl
  have hsub : t.sub = ⟨.fresh, .fresh⟩ := sub_of_inv_running ht (by rwa [State.active, hids]) hp
  exact ⟨hp, hsub, hsub.trans (sub_of_inv_running h ha hs).symm, harmed, hcontroller, hids, hkey⟩

/-! ### The wake press (R188) -/

theorem not_deliverable_of_latch {s : State} {l : Line} (h : s.latch l = false) :
    ¬ s.deliverable l = true := by
  simp [deliverable_iff, h]

/-- With the interrupts off no handler is in progress. -/
theorem inflight_of_irqs_off {s : State} (h : Inv s) (hp : s.phase.irqsOn = false) (l : Line) :
    s.inflight.at l = .none := by
  cases hf : s.inflight.at l with
  | none => rfl
  | needSync => simp [(h.inflight_active l hf).2] at hp

/-- With wake armed a line is enabled in every phase. -/
theorem enabled_of_armed {s : State} (h : Inv s) (harmed : s.wakeArmed = true) (l : Line) :
    (s.sub.at l).subscribed = true ∧ (s.sub.at l).enabled = true := by
  simp [sub_at_of_inv h l, h.armed_active harmed, harmed]

/-- The press that wakes: the edge sets the press latch of an armed block, and nothing is delivered. -/
theorem accepts_edgeF_of_armed {s : State} (h : Inv s) (harmed : s.wakeArmed = true) (hp : s.phase = .noirq)
    (hb : s.btn = .high) (ld : Bool) :
    ∃ e, Accepts s (.edgeF ld) e ∧ e.pressLatch = true ∧ e.sink = s.sink := by
  have hsub := enabled_of_armed h harmed .press
  rw [at_press] at hsub
  obtain ⟨-, -, hedge⟩ := fallingEdgeOperation s ld
  obtain ⟨w, hx, -, hw⟩ := hedge (by simp [hp]) hb
  exact ⟨_, ⟨hx, rfl⟩, hw.trans (by simp [hsub]), rfl⟩

theorem mayMoveFrom_after {s : State} (ha : s.attached = true) (hq : s.quiet = true) (ph : Phase) :
    (reply .ok 0 (setPhase ph s)).mayMoveFrom ph = true :=
  (mayMoveFrom_iff _ ph).mpr ⟨ha, rfl, hq⟩

/-- The way from `PH_NOIRQ` to `PH_RUN` is open, and the latch-clear step alone decides what is left of the
press latch on it. -/
theorem accepts_wake_run {s : State} {c : Controller} (hm : s.mayMoveFrom .noirq = true)
    (hc : s.controller = some c) :
    ∃ a b t, Accepts s (.resumeNoirq false) a ∧ Accepts a .irqon b ∧ Accepts b .resume t
      ∧ t.phase = .run ∧ t.sink = s.sink
      ∧ b.phase = .irqResumed ∧ b.wakeArmed = s.wakeArmed ∧ b.inflight = s.inflight ∧ b.sink = s.sink
      ∧ ∀ x ∈ [a, b, t], x.pressLatch = (s.pressLatch && !c.latchClear) := by
  obtain ⟨ha, -, hq⟩ := (mayMoveFrom_iff s .noirq).mp hm
  have hma := mayMoveFrom_after (s := clearWakeLatch false s)
    (by simpa using ha) (by simpa using hq) .noirqResumed
  have hmb := mayMoveFrom_after (s := reply .ok 0 (setPhase .noirqResumed (clearWakeLatch false s)))
    (by simpa using ha) (by simpa using hq) .irqResumed
  have hlatch : (clearWakeLatch false s).pressLatch = (s.pressLatch && !c.latchClear) := by
    simpa [State.pressLatch] using (getLsbD_stclr_clearWakeLatch hc false).2
  refine ⟨_, _, _, ⟨if_pos hm, rfl⟩, ⟨if_pos hma, rfl⟩, ⟨if_pos hmb, rfl⟩, ?_⟩
  simp [hlatch]

/-- Settles O44: asleep and armed, the edge sets the press latch of an enabled, wake-marked line, and what
the latch-clear step leaves of it decides whether the press can be delivered. -/
theorem wakePressIsReplayedOnlyWithoutLatchClear :
    Obligations.WakePressIsReplayedOnlyWithoutLatchClear := by
  intro s c ld h hc harmed hp hb
  obtain ⟨e, hedge, hpressed, hesink⟩ := accepts_edgeF_of_armed h harmed hp hb ld
  have he : Inv e := inv_of_exec h hedge.1
  have hkeeps := edgeKeeps_of_exec hedge.1 rfl
  have hep : e.phase = .noirq := hkeeps.phase.trans hp
  have hearmed : e.wakeArmed = true := hkeeps.wakeArmed.trans harmed
  have hquiet := inflight_of_irqs_off he (by rw [hep]; rfl)
  have hm := mayMoveFrom_of (he.phase_attached (by simp [hep])) hep (hquiet .press) (hquiet .release)
  obtain ⟨a, b, t, hresumeNoirq, hirqon, hresume, htp, htsink, hbp, hbarmed, hbquiet, hbsink, hlatch⟩ :=
    accepts_wake_run hm (hkeeps.controller.trans hc)
  refine ⟨e, a, b, t, hedge, ?_, hresumeNoirq, hirqon, hresume, htp, htsink.trans hesink,
    fun hclear x hx => ?_, fun hkeep => ?_⟩
  · have hsub := sub_at_of_inv he .press
    exact (wakeReq_iff e).mpr ⟨hep, .press, hpressed,
      by simp [hsub, he.armed_active hearmed, hearmed, hep]⟩
  · have hcleared : x.latch .press = false := by simp [hlatch x hx, hclear]
    exact exec_deliverOf_refused (l := .press) (not_deliverable_of_latch hcleared)
  · have hbinv : Inv b := inv_of_exec (inv_of_exec he hresumeNoirq.1) hirqon.1
    have hbarmed : b.wakeArmed = true := hbarmed.trans hearmed
    obtain ⟨hsubscribed, henabled⟩ := enabled_of_armed hbinv hbarmed .press
    have hleft : b.latch .press = true := by simp [hlatch b (by simp), hpressed, hkeep]
    have hd : b.deliverable .press = true := (deliverable_iff b .press).mpr
      ⟨hbinv.armed_active hbarmed, hsubscribed, henabled, hleft, hbquiet ▸ hquiet .press, by simp [hbp]⟩
    refine ⟨_, exec_deliverOf_accepted hd, ?_⟩
    simp [hbsink, hesink, keyEventOf]

end Sys2Proof.Machine
end

section
/-! PROOFS. The gate, attachment and detachment (spec/44): the truth table of `GATE` (R200, R202), the
branches of `ATTACH` (R204 to R209, R212) with the codes of R92, what a next state of it can be (R211),
and `DETACH` (R210). -/

namespace Sys2Proof.Machine

/-! ### The gate (R200, R202) -/

theorem boolWord_gateActivates (gs a1 a2 : Bool) :
    boolWord (gateActivates gs a1 a2) = if gs = true ∧ (a1 = true ∨ a2 = true) then 0 else 1 := by
  cases gs <;> cases a1 <;> cases a2 <;> rfl

/-- Settles O48: the two branches of the guard, with the decision as R202 tabulates it. -/
theorem gateOperation : Obligations.GateOperation := by
  intro s gs a1 a2
  rw [← boolWord_gateActivates]
  exact ⟨by cases gs <;> cases a1 <;> cases a2 <;> rfl, fun h => if_pos h, fun h => if_neg h⟩

/-! ### `ATTACH` (R204 to R209, R211, R212) -/

/-- An `ATTACH` leaves the state as it was, or commits one of its two whole controllers (R211). -/
theorem exec_attach_cases {a : AttachArg} {s t : State} (hx : exec (.attach a) s = .next t) :
    (∃ st res, st ≠ .ok ∧ t = reply st res s)
      ∨ t = reply .ok 0 (commitInactive (attachController a) s)
      ∨ t = reply .ok 1 (commitActive (attachController a) (attachIds a) s) := by
  cases effect_of_exec hx with
  | refused => exact .inl ⟨.refused, 0, nofun, rfl⟩
  | errored e info => exact .inl ⟨e.status, info, by cases e <;> nofun, rfl⟩
  | attachedInactive a' hi => cases hi; exact .inr (.inl rfl)
  | attachedActive a' hi => cases hi; exact .inr (.inr rfl)
  | answered res hi => exact absurd rfl (hi a)
  | readFailed g hi | written g _ _ _ _ hi => cases g <;> cases hi
  | delivered l hi | finished l hi => cases l <;> cases hi
  | _ => contradiction

/-- Settles O50: of the three forms a next state can have, only the two commits answer `OK`. -/
theorem attachIsAllOrNothing : Obligations.AttachIsAllOrNothing := by
  intro s t a hx
  obtain ⟨st, res, hst, rfl⟩ | rfl | rfl := exec_attach_cases hx
  · exact ⟨fun _ => rfl, fun hok => absurd hok hst⟩
  · exact ⟨fun hne => absurd rfl hne, fun _ => ⟨rfl, nofun, fun _ => ⟨rfl, rfl, rfl⟩⟩⟩
  · exact ⟨fun hne => absurd rfl hne, fun _ => ⟨rfl, fun _ => ⟨rfl, rfl, rfl, rfl, rfl⟩, nofun⟩⟩

theorem encode_attach_cmd (a : AttachArg) : (encode (.attach a)).cmd = 0x71 :=
  show Op.attach.pattern ||| byteBit false 3 = 0x71 from rfl

theorem exec_attach_refused {a : AttachArg} {s : State} (h : s.attached = true ∨ a.typeHigh ≠ 0) :
    exec (.attach a) s = refuse s := by
  by_cases hs : s.attached = true
  · exact if_pos hs
  · exact (if_neg hs).trans (if_pos (h.resolve_left hs))

/-- A detached block, asked for a device of the table, does as the gate decides. -/
theorem exec_attach_of_detached {a : AttachArg} {s : State} (hs : s.attached = false)
    (ht : a.typeHigh = 0) :
    exec (.attach a) s =
      if a.gateSpecial && (a.fwAlt1 || a.fwAlt2) then complete 0 (commitInactive (attachController a) s)
      else if a.pid = a.rid then refuse s else setupController a s := by
  show execAttach a s = _
  simp only [execAttach, attachActivates, gateActivates, hs, ht, Bool.not_not, Bool.false_eq_true, ne_eq,
    not_true_eq_false, if_false]

theorem otherLine_eq (l : Line) : otherLine l = if l = .press then .release else .press := by
  cases l <;> rfl

theorem resolveFailed_eq (l : Line) : resolveFailed l = if l = .press then 0x01 else 0x11 := by
  cases l <;> rfl

theorem subscribeFailed_eq (l : Line) : subscribeFailed l = if l = .press then 0x02 else 0x12 := by
  cases l <;> rfl

/-- Settles O49: the guard, the gate's decision, and the chain of the seven steps with the codes of R92. -/
theorem attachOperation : Obligations.AttachOperation := by
  rintro s a c special first second rfl rfl rfl rfl
  refine ⟨encode_attach_cmd a, exec_attach_refused, fun hs ht => ?_⟩
  rw [exec_attach_of_detached hs ht]
  refine ⟨fun hspecial => if_pos hspecial, fun hspecial => ?_⟩
  simp only [hspecial, Bool.false_eq_true, if_false, setupController, Bool.not_eq_true', ← otherLine_eq,
    ← resolveFailed_eq, ← subscribeFailed_eq, apply_ite Host.Outcome.next]
  rfl

/-! ### `DETACH` (R210) -/

theorem exec_detach (s : State) :
    exec .detach s = if s.mayMoveFrom .run then complete 0 (clearController s) else refuse s := rfl

/-- Settles O51: the guard is that of the moves from `PH_RUN`, and what is released is the controller. -/
theorem detachOperation : Obligations.DetachOperation :=
  fun s => ⟨rfl, exec_move_cases (exec_detach s)⟩

end Sys2Proof.Machine
end

section
/-! PROOFS. Error kinds (spec/60): an operation that does not answer `OK` writes the response and the
count of draws only (R230). -/

namespace Sys2Proof.Machine

/-- Of the forms a next state can have, those that do not answer `OK` are a refusal, an error raised and
a failed read, and none of them writes more than the response and the count of draws (R12, R230, R132). -/
theorem eq_of_effect_of_not_ok {i : Instr} {s t : State} (he : Effect i s t) (ht : t.resp.status ≠ .ok) :
    t = { s with resp := t.resp, draws := t.draws } := by
  cases he with
  | refused | errored | readFailed => rfl
  | _ => exact absurd rfl ht

/-- Settles O8: no error kind is `OK`, and what does not answer `OK` changes nothing. -/
theorem errorsChangeNothing : Obligations.ErrorsChangeNothing := by
  intro i s t hx herr
  have hnot : t.resp.status ≠ .ok := fun hok => absurd (hok ▸ herr) (by decide)
  exact eq_of_effect_of_not_ok (effect_of_exec hx) hnot

end Sys2Proof.Machine
end

section
/-! PROOFS. The reset pin (spec/70): the state `RESET` reaches from every state, `PH_OFF` among them
(R260), and what it does not touch (R264). -/

namespace Sys2Proof.Machine

/-- No guard: the answer is the same form in every state. -/
theorem exec_reset (s : State) : exec .reset s = complete 0 (drawn (resetAll s)) := rfl

/-- Settles O53: the four draws are those `resetAll` takes, and `toReg` keeps the two registers' values
within `REGW` bits. -/
theorem resetOperation : Obligations.ResetOperation :=
  fun s => ⟨rfl, toReg s.params (Config.drawKey s.draws), toReg s.params (Config.drawStclr s.draws),
    Config.drawReleaseLatch s.draws, Config.drawBtn s.draws, toReg_lt s.params _, toReg_lt s.params _,
    exec_reset s⟩

end Sys2Proof.Machine
end
